-- ==== Sys2Proof/Word.lean ====
section
/-!
DEFINITION. The words and addresses of the bus: a word is 32 bits, an address is a word address from 0 to
67,108,863 (00_scope.md 0.6; R86).
-/
namespace Sys2Proof

/-- A bus word (0.6: "A word is 32 bits"). -/
abbrev Word := BitVec 32

/-- A word address on either port, 0 to 67,108,863; the address after the last is 0 (R86). -/
abbrev Addr := BitVec 26

end Sys2Proof
end

