-- ==== Sys2Proof/Syntax.lean ====
section
/-!
DEFINITION. The commands the part takes from outside: the 52 rows of spec/opcode_table.json, one constructor each,
and the transactions and words of the upstream port they stand for (R86).
-/
namespace Sys2Proof

/-- The four master tags every bus transaction carries (0.6, "Masters"). -/
inductive Master where
  | core | inDma | outDma | aux
  deriving DecidableEq, Repr

/-- The direction of a word; a write carries its data (R86). -/
inductive Dir where
  | read
  | write (data : Word)
  deriving DecidableEq, Repr

/-- One word of an upstream transaction as MP takes it: master tag, its own address, direction and data (R86). -/
structure UpWord where
  master : Master
  addr : Addr
  dir : Dir
  deriving DecidableEq, Repr

/-- The direction of a whole transaction: a write carries one data word for each word of its burst (R86). -/
inductive BurstDir where
  | read (length : Nat)
  | write (data : List Word)
  deriving DecidableEq, Repr

/-- An upstream transaction (R86): a master tag, a word address, a direction and a burst of 1 to 16 words. -/
structure Transaction where
  master : Master
  addr : Addr
  dir : BurstDir
  deriving DecidableEq, Repr

/-- The commands. A constructor is a row of the table, its docstring the row's mnemonic and rule. A command that
stands for an upstream word names the word; what the part does with it is the part's own decode, whatever row the
word was presented under (assumption log 1). -/
inductive Instr where
  /-- POWER_ON_RESET (R102). -/
  | powerOnReset
  /-- RESET_PIN_ASSERTED (R102). -/
  | resetPinAsserted
  /-- RESET_END (R101): the strap pins and the level of the YIELD pin as the part samples them. -/
  | resetEnd (straps : BitVec 6) (yieldPin : Bool)
  /-- START_UP_CHECK (R167). -/
  | startUpCheck
  /-- IMAGE_WRITE_COMPLETE (R168). -/
  | imageWriteComplete
  /-- PLAIN_WORD (R87). -/
  | plainWord (m : Master) (a : Addr) (d : Dir)
  /-- FENCED_WRITE (R147). -/
  | fencedWrite (m : Master) (a : Addr) (v : Word)
  /-- WRITER_WRITE (R3). -/
  | writerWrite (m : Master) (a : Addr) (v : Word)
  /-- LINE_FOREIGN_WRITE (R9). -/
  | lineForeignWrite (m : Master) (a : Addr) (v : Word)
  /-- TAP_READ (R40). -/
  | tapRead (m : Master) (a : Addr)
  /-- APERTURE_WRITE (R60). -/
  | apertureWrite (m : Master) (a : Addr) (v : Word)
  /-- ZONE_WRITE (R67): a CORE write. -/
  | zoneWrite (a : Addr) (v : Word)
  /-- ZONE_FOREIGN_WRITE (R69). -/
  | zoneForeignWrite (m : Master) (a : Addr) (v : Word)
  /-- OUTPUT_READ (R75): an OUT-DMA read. -/
  | outputRead (a : Addr)
  /-- PROTECTED_WRITE (R94): at a plan-area offset. -/
  | protectedWrite (m : Master) (off : BitVec 12) (v : Word)
  /-- OPERAND_WRITE (R127): a CORE write of operand word n. -/
  | operandWrite (n : Fin 4) (v : Word)
  /-- FRAME_MARK (R125): a CORE write of the stamp to the frame-mark word. -/
  | frameMark (stamp : Word)
  /-- LINE_RECOVERY (R11): the frame mark at which a line recovers. -/
  | lineRecovery (stamp : Word)
  /-- AREA_RELEASE (R30): the frame mark whose decision releases an area. -/
  | areaRelease (stamp : Word)
  /-- GLIDE_END (R53): the frame mark at which a glide ends. -/
  | glideEnd (stamp : Word)
  /-- ZONE_FALLBACK (R73): the frame mark at which a zone falls back. -/
  | zoneFallback (stamp : Word)
  /-- TAIL_UPDATE (R159): a CORE write to the report tail word. -/
  | tailUpdate (v : Word)
  /-- PERMIT_REQUEST (R170): a CORE write to the permit word. -/
  | permitRequest (n : Word)
  /-- PROGRAMMING_REQUEST (R171): a CORE write to image word i. -/
  | programmingRequest (i : Fin 193) (v : Word)
  /-- IMAGE_FOREIGN_WRITE (R172). -/
  | imageForeignWrite (m : Master) (i : Fin 193) (v : Word)
  /-- PLAN_WORD_WRITE (R112): a CORE write to the plan word at an offset. -/
  | planWordWrite (off : BitVec 12) (v : Word)
  /-- LOAD (R133): a post. A post carries a tag and 16 unused bits (11.2); its operands are the shadow (R128). -/
  | load (tag : BitVec 8) (unused : BitVec 16)
  /-- DROP (R134). -/
  | drop (tag : BitVec 8) (unused : BitVec 16)
  /-- ARM (R135). -/
  | arm (tag : BitVec 8) (unused : BitVec 16)
  /-- DISARM (R136). -/
  | disarm (tag : BitVec 8) (unused : BitVec 16)
  /-- PIN (R137). -/
  | pin (tag : BitVec 8) (unused : BitVec 16)
  /-- FREE (R138). -/
  | free (tag : BitVec 8) (unused : BitVec 16)
  /-- MUTE (R139). -/
  | mute (tag : BitVec 8) (unused : BitVec 16)
  /-- PROOF (R140). -/
  | proof (tag : BitVec 8) (unused : BitVec 16)
  /-- CLEAR (R141). -/
  | clear (tag : BitVec 8) (unused : BitVec 16)
  /-- WATCH_SET (R150): a WATCH post; the operation stands in shadow word 0. -/
  | watchSet (tag : BitVec 8) (unused : BitVec 16)
  /-- WATCH_OFF (R150): a WATCH post. -/
  | watchOff (tag : BitVec 8) (unused : BitVec 16)
  /-- WATCH_RESET_HITS (R150): a WATCH post. -/
  | watchResetHits (tag : BitVec 8) (unused : BitVec 16)
  /-- TALLY (R143). -/
  | tally (tag : BitVec 8) (unused : BitVec 16)
  /-- UNKNOWN_COMMAND (R129): a post whose code is no command. -/
  | unknownCommand (code : BitVec 8) (tag : BitVec 8) (unused : BitVec 16)
  /-- COMMAND_REFUSED (R131): a post presented while CU is ANSWERING. -/
  | commandRefused (code : BitVec 8) (tag : BitVec 8) (unused : BitVec 16)
  /-- PORT_GRANT (R95). -/
  | portGrant
  /-- UPSTREAM_ACCESS_COMPLETE (R88). -/
  | upstreamAccessComplete
  /-- PLAN_READ_COMPLETE (R111). -/
  | planReadComplete
  /-- END_OF_CHECKS (R113). -/
  | endOfChecks
  /-- ANSWER_WRITE_COMPLETE (R130). -/
  | answerWriteComplete
  /-- HEAD_WRITE_COMPLETE (R158). -/
  | headWriteComplete
  /-- STATUS_WRITE_COMPLETE (R162). -/
  | statusWriteComplete
  /-- ENTRY_PROGRAMMING_COMPLETION (R174). -/
  | entryProgrammingCompletion
  /-- CHECKSUM_PROGRAMMING_COMPLETION (R175). -/
  | checksumProgrammingCompletion
  /-- YIELD_ASSERTION (R81). -/
  | yieldAssertion
  /-- YIELD_DEASSERTION (R82). -/
  | yieldDeassertion
  deriving DecidableEq, Repr

end Sys2Proof
end

