-- ==== Sys2Proof/Machine/State.lean ====
section
/-!
DEFINITION. The state of the part, block by block (0.3), and the state right after a reset is taken.
-/
namespace Sys2Proof.Machine

/-! ### Stopping

The spec gives the part no error outcome: "The upstream port has no error response" (R86), and no command ends the
machine. -/

/-- Faults: none. No rule of the spec stops the machine, so no constructor is needed; nobody raises one, which is
safe. -/
inductive Fault where
  deriving DecidableEq, Repr

/-- Refusals. -/
inductive Refusal where
  /-- Raised by a refused arm of `exec` only: a command that has no meaning yet. Safe. No arm uses it. -/
  | notModelled (mnemonic : String)
  deriving DecidableEq, Repr

/-! ### Memory -/

/-- The DRAM (0.6): pairs of word address and word, addresses strictly rising, no word listed that an unlisted
address reads as (assumption log 9, 10). -/
abbrev Memory := List (Nat × Word)

/-- A plan as PL read it: the 839 words of offsets 1024 to 1862 in order (R103, 6.2). -/
abbrev Plan := List Word

/-! ### Line tracker (chapter 1) -/

/-- The conditions of a line (1.2.1). -/
inductive Cond where
  | idle | synced | running | faulted
  deriving DecidableEq, Repr

/-- A line record (1.2). -/
structure LineRec where
  cond : Cond
  /-- running position of the next expected sample, modulo 2^32 -/
  head : Word
  anchor : Word
  anchorValid : Bool
  /-- previous sample, or absent -/
  prev : Option Int
  peak : Nat
  jumpSeen : Bool
  writeSeen : Bool
  resyncReported : Bool
  foreignReported : Bool
  quiet : Nat
  deriving DecidableEq, Repr

/-- The starting values of a line record (R2). -/
def LineRec.start : LineRec where
  cond := .idle
  head := 0
  anchor := 0
  anchorValid := false
  prev := none
  peak := 0
  jumpSeen := false
  writeSeen := false
  resyncReported := false
  foreignReported := false
  quiet := 0

/-! ### Source election unit (chapter 2) -/

/-- What a collection keeps of a level report: its condition and frame peak (2.2). -/
structure Level where
  cond : Cond
  peak : Nat
  deriving DecidableEq, Repr

/-- An area record (2.2). -/
structure AreaRec where
  /-- elected source; absent is NONE -/
  elected : Option (Fin 8)
  pin : Option (Fin 8)
  envelope : Vector Nat 8
  dwell : Nat
  quiet : Nat
  /-- collection stamp -/
  stamp : Option Word
  /-- the collection, keyed by candidate index -/
  collection : Vector (Option Level) 8
  deriving DecidableEq, Repr

/-- The fresh values of an area record (R22). -/
def AreaRec.fresh : AreaRec where
  elected := none
  pin := none
  envelope := Vector.replicate 8 0
  dwell := 0
  quiet := 0
  stamp := none
  collection := Vector.replicate 8 none

/-! ### Tap engine (chapter 3) -/

/-- A zone's glide state (3.2): STEADY at a delay, or GLIDING from one to another at a step over a glide length. -/
inductive Glide where
  | steady (delay : Nat)
  | gliding (a b step length : Nat)
  deriving DecidableEq, Repr

/-- A zone tap record (3.2). -/
structure TapRec where
  glide : Glide
  pendingTarget : Option Nat
  trim : Nat
  saturations : Nat
  earlyReported : Bool
  lateReported : Bool
  deriving DecidableEq, Repr

/-- What the model holds for a zone that is not in use: TE keeps no record then (R41). DESIGN CHOICE, assumption
log 15. -/
def TapRec.unused : TapRec where
  glide := .steady 0
  pendingTarget := none
  trim := 1024
  saturations := 0
  earlyReported := false
  lateReported := false

/-! ### Zone output controller (chapter 4) -/

/-- The states of a zone's feed (4.2). -/
inductive Feed where
  | dormant | live | lapsing | fallback
  deriving DecidableEq, Repr

/-- A zone guard record (4.2). -/
structure GuardRec where
  state : Feed
  muted : Bool
  yielding : Bool
  proof : Bool
  fed : Nat
  miss : Nat
  fade : Nat
  lastHalf : Fin 2
  ceilingCount : Nat
  deriving DecidableEq, Repr

/-- The values a zone comes into use with while YIELD is deasserted (R65); the model holds the same for a zone not in
use, for which ZC keeps no record (DESIGN CHOICE, assumption log 15). -/
def GuardRec.start : GuardRec where
  state := .dormant
  muted := false
  yielding := false
  proof := false
  fed := 0
  miss := 0
  fade := 7
  lastHalf := 0
  ceilingCount := 0

/-! ### Memory path (chapter 5) -/

/-- The four clients of the own-access engine (R97). -/
inductive Client where
  | pl | cu | rw | ss
  deriving DecidableEq, Repr

/-- An access a client issues to the own-access engine (R97), named by what the client makes it for. -/
inductive OwnAccess where
  /-- PL reads the plan word at an offset (R111). -/
  | planRead (off : Nat)
  /-- CU writes a detail word (R128). -/
  | detailWrite (n : Fin 2) (v : Word)
  /-- CU writes the answer word (R128). -/
  | answerWrite (v : Word)
  /-- RW writes word k of the ring entry at an index (R157). -/
  | entryWrite (index : BitVec 6) (k : Fin 4) (v : Word)
  /-- RW writes the ring head (R157). -/
  | headWrite (index : BitVec 6)
  /-- RW writes a status word (R161). -/
  | statusWrite (off : Nat) (v : Word)
  /-- SS writes an image word (R168). -/
  | imageWrite (i : Fin 193) (v : Word)
  deriving DecidableEq, Repr

/-- One memory access of an upstream word (R89). -/
inductive Access where
  | read (a : Addr)
  | write (a : Addr) (v : Word)
  deriving DecidableEq, Repr

/-- How the owner forms the answer of a word from the words its accesses return (R89). -/
inductive Form where
  /-- a write: no answer -/
  | store
  /-- the memory word as it stands -/
  | plain
  /-- a steady tap answer: the sample trimmed (R47, R56) -/
  | steady (z : Fin 48) (trim : Nat)
  /-- a blended tap answer of a weight, trimmed (R48, R49, R56) -/
  | blend (z : Fin 48) (weight trim : Nat)
  /-- an output answer of a LIVE or LAPSING zone (R75) -/
  | checked
  /-- an output answer of a FALLBACK zone in FADE mode (R75) -/
  | faded (level : Nat)
  deriving DecidableEq, Repr

/-- The upstream word in hand (R88): its accesses still to be granted, the words its earlier accesses returned, how
its answer is formed, and, for a read, the watch units that matched it, which mark its completion (R146, R152). -/
structure InHand where
  word : UpWord
  form : Form
  accesses : List Access
  returned : List Word
  watchers : List (Fin 4)
  deriving DecidableEq, Repr

/-- The access granted at the downstream port and not yet complete (R95). -/
inductive PortUse where
  | upstream (access : Access)
  | own (access : OwnAccess)
  deriving DecidableEq, Repr

/-- The events of R88 that do not arrive on the upstream port and wait for the end of the word in hand (assumption
log 5). -/
inductive SlowEvent where
  | startUpCheck
  | endOfChecks
  | entryProgrammed
  | checksumProgrammed
  | yieldEdge (level : Bool)
  /-- the end of an own read, with the word the DRAM returned (R98) -/
  | planWordRead (v : Word)
  /-- the end of an own write (R98) -/
  | ownWritten (access : OwnAccess)
  deriving DecidableEq, Repr

/-- An upstream word completed towards its master, with the answer of a read (R88): the port's output. -/
structure Completed where
  word : UpWord
  answer : Option Word
  deriving DecidableEq, Repr

/-- The memory path. -/
structure MemPath where
  /-- the strap value held (R91) -/
  straps : BitVec 6
  /-- the part is in reset (R102) -/
  resetHeld : Bool
  inHand : Option InHand
  waiting : List UpWord
  held : List SlowEvent
  port : Option PortUse
  /-- consecutive upstream grants while the own engine waited (R95) -/
  count : Nat
  /-- the rotation pointer (R97) -/
  pointer : Client
  ownPL : List OwnAccess
  ownCU : List OwnAccess
  ownRW : List OwnAccess
  ownSS : List OwnAccess
  /-- the last word completed upstream (the model's record of an output, assumption log 23) -/
  lastDone : Option Completed
  deriving DecidableEq, Repr

/-! ### Plan loader (chapter 6) -/

/-- The loader states (6.2). -/
inductive LoadState where
  | idle | reading | checking | waitingSwap
  deriving DecidableEq, Repr

/-- The last outcome (6.2). -/
inductive LoadOutcome where
  | none | loaded | swapped | torn | checksum | invalid | layout | abandoned
  deriving DecidableEq, Repr

/-- The plan loader (6.2). -/
structure Loader where
  state : LoadState
  cursor : Nat
  readInFlight : Bool
  staleRead : Bool
  /-- the first tearing write: its offset, and the cursor then -/
  torn : Option (Nat × Nat)
  sum : Word
  loadWords : List Word
  standby : Option Plan
  live : Option Plan
  outcome : LoadOutcome
  deriving DecidableEq, Repr

/-- PL after a reset (R110). -/
def Loader.reset : Loader where
  state := .idle
  cursor := 1024
  readInFlight := false
  staleRead := false
  torn := none
  sum := 0
  loadWords := []
  standby := none
  live := none
  outcome := .none

/-! ### Command unit (chapter 7) -/

/-- The device states (7.1). -/
inductive Device where
  | starting | cold | ready | service
  deriving DecidableEq, Repr

/-- The cause of a reset (R102, 11.4). -/
inductive ResetCause where
  | powerOn | resetPin
  deriving DecidableEq, Repr

/-- The slot states (7.3). -/
inductive Slot where
  | idle | answering
  deriving DecidableEq, Repr

/-- The command unit (7.1, 7.3). -/
structure CommandUnit where
  device : Device
  /-- the cause of the reset that began this start-up (R124) -/
  cause : ResetCause
  slot : Slot
  shadow : Vector Word 4
  /-- the operands latched with the last taken post (R128, R179) -/
  latched : Vector Word 4
  lastTag : Option (BitVec 8)
  lastStamp : Word
  deriving DecidableEq, Repr

/-- CU after a reset (R122, R132). The latched operands: DESIGN CHOICE, assumption log 27. -/
def CommandUnit.reset (cause : ResetCause) : CommandUnit where
  device := .starting
  cause := cause
  slot := .idle
  shadow := Vector.replicate 4 0
  latched := Vector.replicate 4 0
  lastTag := none
  lastStamp := 0

/-! ### Address watch (chapter 8) -/

/-- Which directions match (8.1). -/
inductive Kinds where
  | read | write | either
  deriving DecidableEq, Repr

/-- Whether DISARM turns a unit OFF (8.1). -/
inductive Scope where
  | standing | service
  deriving DecidableEq, Repr

/-- Whether matching writes are dropped (8.1). -/
inductive Action where
  | note | fence
  deriving DecidableEq, Repr

/-- A first-hit record (8.1); the data of a read is absent until the read completes (R146). -/
structure FirstHit where
  addr : Addr
  master : Master
  isWrite : Bool
  data : Option Word
  deriving DecidableEq, Repr

/-- A watch unit record (8.1). The hit flag is set exactly when the first-hit record is present, so it is stored
once, as that presence (assumption log 22). -/
structure WatchUnit where
  on : Bool
  base : Addr
  length : Nat
  kinds : Kinds
  /-- the master set, bit k for the master of code k (8.1: CORE 1, IN-DMA 2, OUT-DMA 4, AUX 8) -/
  masters : BitVec 4
  scope : Scope
  action : Action
  hits : Nat
  firstHit : Option FirstHit
  deriving DecidableEq, Repr

/-- The hit flag (8.1). -/
def WatchUnit.hitFlag (u : WatchUnit) : Bool := u.firstHit.isSome

/-- A watch unit after a reset (R144). -/
def WatchUnit.reset : WatchUnit where
  on := false
  base := 0
  length := 1
  kinds := .either
  masters := 15
  scope := .standing
  action := .note
  hits := 0
  firstHit := none

/-! ### Report writer (chapter 9) -/

/-- The report kinds (9.1). -/
inductive ReportKind where
  | started | planLoaded | planRejected | planSwapped | elected | zoneState
  | lineFault | lineRecovered | lineResync | foreignWrite | tapEarly | tapLate
  | watchHit | storeWritten | storeRefused | storeCheck | commandRefused | yieldChange
  deriving DecidableEq, Repr

/-- An accepted report (9.1, R154, R155). -/
structure Report where
  kind : ReportKind
  subject : Nat
  stamp : Word
  detailA : Word
  detailB : Word
  droppedBefore : Nat
  deriving DecidableEq, Repr

/-- RW's one piece of work outstanding (9.2): none, the five writes of a report, or a status write. -/
inductive WriterWork where
  | free | report | status
  deriving DecidableEq, Repr

/-- The report writer (9.1, 9.2). -/
structure ReportWriter where
  /-- published ring head -/
  head : BitVec 6
  tail : BitVec 6
  /-- the posting queue, oldest first -/
  queue : List Report
  dropped : Nat
  total : Nat
  /-- the dirty set, rising and without repeats -/
  dirty : List Nat
  work : WriterWork
  deriving DecidableEq, Repr

/-- RW after a reset (R163): everything dirty, nothing queued. -/
def ReportWriter.reset : ReportWriter where
  head := 0
  tail := 0
  queue := []
  dropped := 0
  total := 0
  dirty := List.range' 16 102
  work := .free

/-! ### Safety store (chapter 10) -/

/-- The store conditions (10.2). -/
inductive StoreCond where
  | valid | unsealed | invalid
  deriving DecidableEq, Repr

/-- The safety store (10.1). BUSY is yes exactly while a programming record is present (R171, R174, R175), so it is
stored once, as that presence (assumption log 22). -/
structure SafetyStore where
  words : Vector Word 193
  cond : StoreCond
  programming : Option (Fin 193 × Word)
  permit : Option (Fin 193)
  /-- image cursor, 0 to 193 -/
  cursor : Nat
  /-- the start-up check is under way (R167) -/
  checkPending : Bool
  deriving DecidableEq, Repr

/-- BUSY (10.1). -/
def SafetyStore.busy (t : SafetyStore) : Bool := t.programming.isSome

/-- SS after a reset that leaves these store words (R167). -/
def SafetyStore.reset (words : Vector Word 193) : SafetyStore where
  words := words
  cond := .invalid
  programming := none
  permit := none
  cursor := 0
  checkPending := false

/-! ### The whole part -/

/-- The state of the part: the queue of commands waiting, the memory behind it, and every block's state (0.3). -/
structure State where
  /-- commands waiting, first in first out -/
  pending : List Instr
  mem : Memory
  path : MemPath
  lines : Vector LineRec 24
  areas : Vector AreaRec 8
  taps : Vector TapRec 48
  guards : Vector GuardRec 48
  /-- latched YIELD level (R79) -/
  yieldLevel : Bool
  loader : Loader
  command : CommandUnit
  watch : Vector WatchUnit 4
  writer : ReportWriter
  store : SafetyStore
  /-- the model's own counter of free values used (assumption log 13) -/
  freeUsed : Nat
  deriving DecidableEq, Repr

/-- MP in reset (R101): no word, no own access, count 0, pointer at PL. The strap value and the reset itself last
until the reset ends. -/
def MemPath.reset (straps : BitVec 6) : MemPath where
  straps := straps
  resetHeld := true
  inHand := none
  waiting := []
  held := []
  port := none
  count := 0
  pointer := .pl
  ownPL := []
  ownCU := []
  ownRW := []
  ownSS := []
  lastDone := none

/-- The part right after a power-on reset is taken and before it ends: every block at its reset values (R2, R22, R41,
R65, R101, R110, R132, R144, R163, R167). RESET_END, the next command of any run, samples the straps and YIELD.
DESIGN CHOICE: memory, store words, straps and YIELD level before that (assumption log 10, 12, 14). -/
def State.reset : State where
  pending := []
  mem := []
  path := MemPath.reset 0
  lines := Vector.replicate 24 LineRec.start
  areas := Vector.replicate 8 AreaRec.fresh
  taps := Vector.replicate 48 TapRec.unused
  guards := Vector.replicate 48 GuardRec.start
  yieldLevel := false
  loader := Loader.reset
  command := CommandUnit.reset .powerOn
  watch := Vector.replicate 4 WatchUnit.reset
  writer := ReportWriter.reset
  store := SafetyStore.reset (Vector.replicate 193 0)
  freeUsed := 0

end Sys2Proof.Machine
end

