-- ==== Sys2Proof/WellFormed.lean ====
section
/-!
DEFINITION. Which commands and transactions name what their row of the table stands for, as far as their operands
alone can show it. The part takes any word whatever it was presented under, so no meaning asks for this.
-/
namespace Sys2Proof

/-- The plan-area offsets R94 protects: the answer word, the detail words, the status block, the report ring (R92). -/
def protectedOffset (off : Nat) : Bool :=
  off = 1 || off = 6 || off = 7 || (16 ≤ off && off ≤ 117) || (256 ≤ off && off ≤ 511)

/-- The plan words, offsets 1024 to 1862 (R92). -/
def planWordOffset (off : Nat) : Bool := 1024 ≤ off && off ≤ 1862

/-- The command codes of 7.4, 1 to 11. -/
def knownCode (code : Nat) : Bool := 1 ≤ code && code ≤ 11

/-- A command's operands are those of its row: a foreign write to a zone buffer or to the image is no CORE write
(R69, R172), a protected write and a plan-word write name such an offset (R94, R112), and an unknown command's code
is none of the eleven (R129). -/
def Instr.wellFormed : Instr → Bool
  | .powerOnReset => true
  | .resetPinAsserted => true
  | .resetEnd _ _ => true
  | .startUpCheck => true
  | .imageWriteComplete => true
  | .plainWord _ _ _ => true
  | .fencedWrite _ _ _ => true
  | .writerWrite _ _ _ => true
  | .lineForeignWrite _ _ _ => true
  | .tapRead _ _ => true
  | .apertureWrite _ _ _ => true
  | .zoneWrite _ _ => true
  | .zoneForeignWrite m _ _ => m != .core
  | .outputRead _ => true
  | .protectedWrite _ off _ => protectedOffset off.toNat
  | .operandWrite _ _ => true
  | .frameMark _ => true
  | .lineRecovery _ => true
  | .areaRelease _ => true
  | .glideEnd _ => true
  | .zoneFallback _ => true
  | .tailUpdate _ => true
  | .permitRequest _ => true
  | .programmingRequest _ _ => true
  | .imageForeignWrite m _ _ => m != .core
  | .planWordWrite off _ => planWordOffset off.toNat
  | .load _ _ => true
  | .drop _ _ => true
  | .arm _ _ => true
  | .disarm _ _ => true
  | .pin _ _ => true
  | .free _ _ => true
  | .mute _ _ => true
  | .proof _ _ => true
  | .clear _ _ => true
  | .watchSet _ _ => true
  | .watchOff _ _ => true
  | .watchResetHits _ _ => true
  | .tally _ _ => true
  | .unknownCommand code _ _ => !knownCode code.toNat
  | .commandRefused _ _ _ => true
  | .portGrant => true
  | .upstreamAccessComplete => true
  | .planReadComplete => true
  | .endOfChecks => true
  | .answerWriteComplete => true
  | .headWriteComplete => true
  | .statusWriteComplete => true
  | .entryProgrammingCompletion => true
  | .checksumProgrammingCompletion => true
  | .yieldAssertion => true
  | .yieldDeassertion => true

/-- How many words a transaction carries. -/
def Transaction.length (t : Transaction) : Nat :=
  match t.dir with
  | .read n => n
  | .write vs => vs.length

/-- R86: a burst has 1 to 16 words. -/
def Transaction.wellFormed (t : Transaction) : Bool := 1 ≤ t.length && t.length ≤ 16

end Sys2Proof
end

