-- ==== Sys2Proof/Machine/Operands.lean ====
section
/-!
DEFINITION. How words are read and written: bit fields, samples and their clamps, the codes of chapter 11, the
fields of a plan (6.1), of a post and of the WATCH operands (11.2).
-/
namespace Sys2Proof.Machine

/-! ### Words -/

/-- Bits `lo` to `lo + n - 1` of a word as an unsigned number (chapter 11). -/
def bits (w : Word) (lo n : Nat) : Nat := w.toNat / 2 ^ lo % 2 ^ n

/-- An unsigned number as a word. -/
def word (n : Nat) : Word := BitVec.ofNat 32 n

/-- A yes-or-no field as a number. -/
def flag (b : Bool) : Nat := if b then 1 else 0

/-- An upstream address as a report shows it. -/
def addrWord (a : Addr) : Word := word a.toNat

/-! ### Samples (0.6) -/

/-- Full scale (0.6). -/
def fullScale : Int := 8388607

/-- A word read as a signed sample (0.6). -/
def sample (w : Word) : Int := w.toInt

/-- A signed sample as a word. -/
def ofSample (x : Int) : Word := BitVec.ofInt 32 x

/-- Clamping a value to plus or minus `c`. -/
def clampTo (c x : Int) : Int := if c < x then c else if x < -c then -c else x

/-- Clamping into the legal range (0.6). -/
def clampLegal (x : Int) : Int := clampTo fullScale x

/-- The void code (0.6). -/
def voidCode : Word := ofSample (-8388608)

/-- A memory word clamped into the legal range before it is used (R43, R75). -/
def legalSample (w : Word) : Int := clampLegal (sample w)

/-! ### Counts that stop (0.6) -/

/-- An event counter's next value; it stops at 65,535 (0.6). -/
def countUp (n : Nat) : Nat := min 65535 (n + 1)

/-! ### Codes (11.2 to 11.5) -/

/-- Master tag codes (11.3, 11.4). -/
def masterCode : Master → Nat
  | .core => 0
  | .inDma => 1
  | .outDma => 2
  | .aux => 3

/-- Line conditions in a status word (11.5). -/
def condCode : Cond → Nat
  | .idle => 0
  | .synced => 1
  | .running => 2
  | .faulted => 3

/-- Zone guard states (11.4). -/
def feedCode : Feed → Nat
  | .dormant => 0
  | .live => 1
  | .lapsing => 2
  | .fallback => 3

/-- Loader states (11.4). -/
def loadStateCode : LoadState → Nat
  | .idle => 0
  | .reading => 1
  | .checking => 2
  | .waitingSwap => 3

/-- Last outcomes (11.5); codes 1 to 5 are the rejection reasons (11.4). -/
def loadOutcomeCode : LoadOutcome → Nat
  | .none => 0
  | .torn => 1
  | .checksum => 2
  | .invalid => 3
  | .layout => 4
  | .abandoned => 5
  | .loaded => 6
  | .swapped => 7

/-- Device states (11.5). -/
def deviceCode : Device → Nat
  | .starting => 0
  | .cold => 1
  | .ready => 2
  | .service => 3

/-- Causes of reset (11.4). -/
def causeCode : ResetCause → Nat
  | .powerOn => 1
  | .resetPin => 2

/-- Store conditions (11.4). -/
def storeCondCode : StoreCond → Nat
  | .valid => 0
  | .unsealed => 1
  | .invalid => 2

/-- Report kinds (11.4). -/
def reportCode : ReportKind → Nat
  | .started => 1
  | .planLoaded => 2
  | .planRejected => 3
  | .planSwapped => 4
  | .elected => 5
  | .zoneState => 6
  | .lineFault => 7
  | .lineRecovered => 8
  | .lineResync => 9
  | .foreignWrite => 10
  | .tapEarly => 11
  | .tapLate => 12
  | .watchHit => 13
  | .storeWritten => 14
  | .storeRefused => 15
  | .storeCheck => 16
  | .commandRefused => 17
  | .yieldChange => 18

/-- Watch kinds (11.2, 11.5). -/
def kindsCode : Kinds → Nat
  | .read => 1
  | .write => 2
  | .either => 3

/-- The kind of one word, READ 1 or WRITE 2 (11.4). -/
def dirCode (isWrite : Bool) : Nat := if isWrite then 2 else 1

/-- A source or pin as a report and a status word show it: NONE and absent are 255 (11.4, 11.5). -/
def sourceCode : Option (Fin 8) → Nat
  | none => 255
  | some i => i.val

/-- A permit as status word 20 and STORE_REFUSED show it: absent is 255 (R176, R177). -/
def permitCode : Option (Fin 193) → Nat
  | none => 255
  | some i => i.val

/-! ### Upstream words -/

/-- Whether a word is a write. -/
def isWrite : Dir → Bool
  | .read => false
  | .write _ => true

/-- The data a write carries. -/
def writeData : Dir → Option Word
  | .read => none
  | .write v => some v

/-- R86: the words of a burst, in burst order, at successive addresses; the address after 67,108,863 is 0. -/
def burstWords (t : Transaction) : List UpWord :=
  let dirs := match t.dir with
    | .read n => List.replicate n Dir.read
    | .write vs => vs.map Dir.write
  dirs.mapIdx fun k d => ⟨t.master, t.addr + BitVec.ofNat 26 k, d⟩

/-! ### Plan area (5.2, 11.1) -/

/-- R91: the base of the plan area is the strap value times 1,048,576. -/
def planBase (straps : BitVec 6) : Nat := 1048576 * straps.toNat

/-- The address of a plan-area offset. -/
def planAddr (straps : BitVec 6) (off : Nat) : Addr := BitVec.ofNat 26 (planBase straps + off)

/-- The plan-area offset of an address, if it lies there: base to base + 4,095 (R91). -/
def planOffset (straps : BitVec 6) (a : Addr) : Option Nat :=
  if planBase straps ≤ a.toNat ∧ a.toNat < planBase straps + 4096 then some (a.toNat - planBase straps) else none

/-! ### Plan words (6.1) -/

/-- The plan word at a plan-area offset. -/
def Plan.word (p : Plan) (off : Nat) : Word := p.getD (off - 1024) 0

/-- The plan word at an offset as an unsigned number (R181). -/
def Plan.num (p : Plan) (off : Nat) : Nat := (p.word off).toNat

/-- The plan sum word (R103). -/
def Plan.planSum (p : Plan) : Word := p.word 1024

/-- F (6.1.1). -/
def Plan.frameLen (p : Plan) : Nat := p.num 1025

/-- Line count (6.1.1). -/
def Plan.lineCount (p : Plan) : Nat := p.num 1026

/-- Area count (6.1.1). -/
def Plan.areaCount (p : Plan) : Nat := p.num 1027

/-- Zone count (6.1.1). -/
def Plan.zoneCount (p : Plan) : Nat := p.num 1028

/-- TAP_BASE (6.1.1). -/
def Plan.tapBase (p : Plan) : Nat := p.num 1029

/-- ZONE_BASE (6.1.1). -/
def Plan.zoneBase (p : Plan) : Nat := p.num 1030

/-- Offset of word k of line record i (6.1). -/
def lineOff (i k : Nat) : Nat := 1031 + 6 * i + k

/-- Offset of word k of area record a (6.1). -/
def areaOff (a k : Nat) : Nat := 1175 + 14 * a + k

/-- Offset of word k of zone record z (6.1). -/
def zoneOff (z k : Nat) : Nat := 1287 + 12 * z + k

/-- A line's base (6.1.2). -/
def Plan.lineBase (p : Plan) (i : Nat) : Nat := p.num (lineOff i 0)

/-- A line's length (6.1.2). -/
def Plan.lineLen (p : Plan) (i : Nat) : Nat := p.num (lineOff i 1)

/-- The code of a line's writer (6.1.2). -/
def Plan.lineWriter (p : Plan) (i : Nat) : Nat := p.num (lineOff i 2)

/-- The code of a line's role: CANDIDATE 1, PROGRAM 2 (11.3). -/
def Plan.lineRole (p : Plan) (i : Nat) : Nat := p.num (lineOff i 3)

/-- A line's jump threshold (6.1.2). -/
def Plan.jumpThreshold (p : Plan) (i : Nat) : Nat := p.num (lineOff i 4)

/-- A line's recover frames (6.1.2). -/
def Plan.recoverFrames (p : Plan) (i : Nat) : Nat := p.num (lineOff i 5)

/-- An area's candidate count (6.1.3). -/
def Plan.candCount (p : Plan) (a : Nat) : Nat := p.num (areaOff a 0)

/-- The line at a candidate index of an area (6.1.3). -/
def Plan.candLine (p : Plan) (a i : Nat) : Nat := p.num (areaOff a (1 + i))

/-- An area's threshold (6.1.3). -/
def Plan.threshold (p : Plan) (a : Nat) : Nat := p.num (areaOff a 9)

/-- An area's margin (6.1.3). -/
def Plan.margin (p : Plan) (a : Nat) : Nat := p.num (areaOff a 10)

/-- An area's dwell frames (6.1.3). -/
def Plan.dwellFrames (p : Plan) (a : Nat) : Nat := p.num (areaOff a 11)

/-- An area's release frames (6.1.3). -/
def Plan.releaseFrames (p : Plan) (a : Nat) : Nat := p.num (areaOff a 12)

/-- An area's decay shift, bits 0 to 7 of +13 (11.3). -/
def Plan.decayShift (p : Plan) (a : Nat) : Nat := bits (p.word (areaOff a 13)) 0 8

/-- An area's glide frames, bits 8 to 15 of +13 (11.3). -/
def Plan.glideFrames (p : Plan) (a : Nat) : Nat := bits (p.word (areaOff a 13)) 8 8

/-- A zone's programme line (6.1.4). -/
def Plan.programLine (p : Plan) (z : Nat) : Nat := p.num (zoneOff z 0)

/-- A zone's area (6.1.4). -/
def Plan.zoneArea (p : Plan) (z : Nat) : Nat := p.num (zoneOff z 1)

/-- A zone's trim (6.1.4). -/
def Plan.trim (p : Plan) (z : Nat) : Nat := p.num (zoneOff z 2)

/-- A zone's rest delay (6.1.4). -/
def Plan.restDelay (p : Plan) (z : Nat) : Nat := p.num (zoneOff z 3)

/-- A zone's row entry for a candidate index (6.1.4). -/
def Plan.rowEntry (p : Plan) (z i : Nat) : Nat := p.num (zoneOff z (4 + i))

/-- The lines in use: those below the line count (chapter 1). -/
def Plan.linesInUse (p : Plan) : List (Fin 24) := (List.finRange 24).filter (·.val < p.lineCount)

/-- The areas in use (R21). -/
def Plan.areasInUse (p : Plan) : List (Fin 8) := (List.finRange 8).filter (·.val < p.areaCount)

/-- The zones in use (3.2, chapter 4). -/
def Plan.zonesInUse (p : Plan) : List (Fin 48) := (List.finRange 48).filter (·.val < p.zoneCount)

/-- The zones of an area: the zones in use whose area field names it (2.1). -/
def Plan.zonesOf (p : Plan) (a : Fin 8) : List (Fin 48) := p.zonesInUse.filter (p.zoneArea ·.val = a.val)

/-- The candidate indices of an area, 0 to candidate count − 1 (2.1). -/
def Plan.candidates (p : Plan) (a : Fin 8) : List (Fin 8) := (List.finRange 8).filter (·.val < p.candCount a.val)

/-- The index a line holds among the first candidate count entries of an area's list (R12, R21). -/
def Plan.candidateIndex (p : Plan) (a : Fin 8) (l : Fin 24) : Option (Fin 8) :=
  (p.candidates a).find? fun i => p.candLine a.val i.val = l.val

/-- The master that writes a line (11.3). -/
def Plan.isWriter (p : Plan) (l : Fin 24) (m : Master) : Bool := p.lineWriter l.val = masterCode m

/-- The record number of a line named in a checked plan. -/
def lineNo (n : Nat) : Fin 24 := Fin.ofNat 24 n

/-- The record number of an area named in a checked plan. -/
def areaNo (n : Nat) : Fin 8 := Fin.ofNat 8 n

/-! ### Regions (5.2) -/

/-- Where an address falls (R90). -/
inductive Region where
  | planArea (off : Nat)
  | aperture (z : Fin 48) (j : Nat)
  | zoneBuffer (z : Fin 48) (half : Fin 2) (j : Nat)
  | lineMemory (l : Fin 24) (off : Nat)
  | noRegion
  deriving DecidableEq, Repr

/-- R39: the zone and word index of an address in the tap aperture. -/
def Plan.apertureAt (p : Plan) (a : Addr) : Option (Fin 48 × Nat) :=
  let o := a.toNat - p.tapBase
  if h : p.tapBase ≤ a.toNat ∧ o / p.frameLen < p.zoneCount ∧ o / p.frameLen < 48 then
    some (⟨o / p.frameLen, h.2.2⟩, o % p.frameLen)
  else none

/-- R64: the zone, half and word index of an address in the zone buffers. -/
def Plan.bufferAt (p : Plan) (a : Addr) : Option (Fin 48 × Fin 2 × Nat) :=
  let o := a.toNat - p.zoneBase
  let f := p.frameLen
  if h : p.zoneBase ≤ a.toNat ∧ o / (2 * f) < p.zoneCount ∧ o / (2 * f) < 48 then
    let r := o % (2 * f)
    some (⟨o / (2 * f), h.2.2⟩, if r < f then (0, r) else (1, r - f))
  else none

/-- 1.1: the line in use whose memory holds an address, and the offset there. -/
def Plan.lineAt (p : Plan) (a : Addr) : Option (Fin 24 × Nat) :=
  (p.linesInUse.find? fun l => p.lineBase l.val ≤ a.toNat ∧ a.toNat < p.lineBase l.val + p.lineLen l.val).map
    fun l => (l, a.toNat - p.lineBase l.val)

/-- R90 outside STARTING: the plan area by the straps, the other regions by the live plan. -/
def regionOf (straps : BitVec 6) (live : Option Plan) (a : Addr) : Region :=
  match planOffset straps a with
  | some off => .planArea off
  | none =>
    match live with
    | none => .noRegion
    | some p =>
      match p.apertureAt a with
      | some (z, j) => .aperture z j
      | none =>
        match p.bufferAt a with
        | some (z, h, j) => .zoneBuffer z h j
        | none =>
          match p.lineAt a with
          | some (l, o) => .lineMemory l o
          | none => .noRegion

/-! ### Posts (11.2) -/

/-- The tag of a post word, bits 0 to 7 (11.2). -/
def postTag (v : Word) : BitVec 8 := BitVec.ofNat 8 (bits v 0 8)

/-- The command code of a post word, bits 8 to 15 (11.2, R179). -/
def postCode (v : Word) : Nat := bits v 8 8

/-- The post word that carries a code, a tag and unused bits (11.2). -/
def postWord (code : Nat) (tag : BitVec 8) (unused : BitVec 16) : Word :=
  word (tag.toNat + 256 * code + 65536 * unused.toNat)

/-- The commands of 7.4. -/
inductive Command where
  | load | drop | arm | disarm | pin | free | mute | proof | clear | watch | tally
  deriving DecidableEq, Repr

/-- Command codes (7.4). -/
def Command.code : Command → Nat
  | .load => 1
  | .drop => 2
  | .arm => 3
  | .disarm => 4
  | .pin => 5
  | .free => 6
  | .mute => 7
  | .proof => 8
  | .clear => 9
  | .watch => 10
  | .tally => 11

/-- The command of a code; a code of 0 or of 12 to 255 is none (R180). -/
def commandOf (code : Nat) : Option Command :=
  [Command.load, .drop, .arm, .disarm, .pin, .free, .mute, .proof, .clear, .watch, .tally].find? (·.code = code)

/-- The outcomes of a post (7.3). -/
inductive Answer where
  | done | badState | badOperand | unknown
  deriving DecidableEq, Repr

/-- Outcome codes (11.2). -/
def Answer.code : Answer → Nat
  | .done => 1
  | .badState => 2
  | .badOperand => 3
  | .unknown => 4

/-- The answer word: tag in bits 0 to 7, outcome in bits 8 to 15, 0 above (11.2, R179). -/
def answerWord (tag : BitVec 8) (x : Answer) : Word := word (tag.toNat + 256 * x.code)

/-! ### WATCH operands (11.2) -/

/-- The operations of WATCH (R142). -/
inductive WatchOp where
  | set | off | resetHits
  deriving DecidableEq, Repr

/-- The unit WATCH names, bits 0 to 7 of operand 0 (11.2). -/
def watchUnitField (w : Word) : Nat := bits w 0 8

/-- The operation WATCH names, bits 8 to 15 of operand 0: SET 1, OFF 2, RESET_HITS 3 (11.2, R180). -/
def watchOpField (w : Word) : Option WatchOp :=
  match bits w 8 8 with
  | 1 => some .set
  | 2 => some .off
  | 3 => some .resetHits
  | _ => none

/-- The kinds of the attributes, bits 1 to 2 of operand 3; 0 codes none (11.2, R180). -/
def watchKindsField (w : Word) : Option Kinds :=
  match bits w 1 2 with
  | 1 => some .read
  | 2 => some .write
  | 3 => some .either
  | _ => none

/-- The master set, bits 4 to 7 of operand 3 (11.2). -/
def watchMastersField (w : Word) : BitVec 4 := BitVec.ofNat 4 (bits w 4 4)

/-- The scope, bit 8 of operand 3 (11.2). -/
def watchScopeField (w : Word) : Scope := if bits w 8 1 = 0 then .standing else .service

/-- The action, bit 12 of operand 3 (11.2). -/
def watchActionField (w : Word) : Action := if bits w 12 1 = 0 then .note else .fence

/-- Whether a master set holds a master (8.1). -/
def inMasterSet (set : BitVec 4) (m : Master) : Bool := set.getLsbD (masterCode m)

end Sys2Proof.Machine
end

