-- ==== Sys2Proof/Machine/Flags.lean ====
section
/-!
DEFINITION. What the state shows: records by number, which are in use, ATTN (R160), the status words (11.5), and the
effective safety entries (R66).
-/
namespace Sys2Proof.Machine

/-! ### Records by number -/

/-- A line record. -/
def State.line (s : State) (l : Fin 24) : LineRec := s.lines[l.val]

/-- An area record. -/
def State.area (s : State) (a : Fin 8) : AreaRec := s.areas[a.val]

/-- A zone tap record. -/
def State.tap (s : State) (z : Fin 48) : TapRec := s.taps[z.val]

/-- A zone guard record. -/
def State.guard (s : State) (z : Fin 48) : GuardRec := s.guards[z.val]

/-- A watch unit record. -/
def State.unit (s : State) (u : Fin 4) : WatchUnit := s.watch[u.val]

/-- A candidate's envelope (2.2). -/
def AreaRec.level (r : AreaRec) (i : Fin 8) : Nat := r.envelope[i.val]

/-- The report filed under a candidate index, or IDLE with peak 0 if none is filed (R26, R28). -/
def AreaRec.report (r : AreaRec) (i : Fin 8) : Level := (r.collection[i.val]).getD ⟨.idle, 0⟩

/-- Whether a line is in use: its number is below the live plan's line count (chapter 1). -/
def State.lineInUse (s : State) (l : Nat) : Bool := s.loader.live.any fun p => l < p.lineCount

/-- Whether an area is in use (R21). -/
def State.areaInUse (s : State) (a : Nat) : Bool := s.loader.live.any fun p => a < p.areaCount

/-- Whether a zone is in use (3.2, chapter 4). -/
def State.zoneInUse (s : State) (z : Nat) : Bool := s.loader.live.any fun p => z < p.zoneCount

/-! ### ATTN and the ring (R155, R160) -/

/-- The ring's occupancy: published head minus tail, modulo 64 (R155). -/
def ReportWriter.occupancy (w : ReportWriter) : Nat := (w.head - w.tail).toNat

/-- ATTN is asserted exactly while the published head differs from the tail (R160). -/
def State.attn (s : State) : Bool := s.writer.head != s.writer.tail

/-! ### Safety entries (4.3) -/

/-- The fallback modes (R66). -/
inductive FallbackMode where
  | mute | fade
  deriving DecidableEq, Repr

/-- Fallback mode codes (11.4). -/
def FallbackMode.code : FallbackMode → Nat
  | .mute => 0
  | .fade => 1

/-- A zone's four effective entries (R66). -/
structure Entries where
  ceiling : Nat
  watchFrames : Nat
  mode : FallbackMode
  yieldFlag : Bool
  deriving DecidableEq, Repr

/-- Store word 4z + k (10.1). -/
def SafetyStore.entry (t : SafetyStore) (z : Fin 48) (k : Fin 4) : Nat := (t.words[4 * z.val + k.val]).toNat

/-- The stored entries of a zone, read as the table of R66. -/
def SafetyStore.storedEntries (t : SafetyStore) (z : Fin 48) : Entries where
  ceiling := min 8388607 (t.entry z 0)
  watchFrames := min 8 (t.entry z 1)
  mode := if t.entry z 2 = 1 then .fade else .mute
  yieldFlag := t.entry z 3 != 0

/-- The conservative entries (R66). -/
def conservativeEntries : Entries where
  ceiling := 1048575
  watchFrames := 2
  mode := .mute
  yieldFlag := true

/-- R66: the effective entries, stored while the condition is VALID or UNSEALED, conservative while it is INVALID. -/
def SafetyStore.effective (t : SafetyStore) (z : Fin 48) : Entries :=
  match t.cond with
  | .valid => t.storedEntries z
  | .unsealed => t.storedEntries z
  | .invalid => conservativeEntries

/-- The sum of words 0 to 191 modulo 2^32 (R167). -/
def SafetyStore.entrySum (t : SafetyStore) : Word :=
  ((List.finRange 192).map fun i => t.words[i.val]).foldl (· + ·) 0

/-- The checksum word (10.1). -/
def SafetyStore.checksum (t : SafetyStore) : Word := t.words[192]

/-- The condition a check finds: VALID when the sum equals the checksum word, INVALID otherwise (R167, R175). -/
def SafetyStore.checkResult (t : SafetyStore) : StoreCond :=
  if t.entrySum = t.checksum then .valid else .invalid

/-! ### Status words (11.5) -/

/-- The in-use bit, bit 31 (11.5). -/
def inUseBit (b : Bool) : Nat := if b then 2147483648 else 0

/-- Word 17: loader state and last outcome. -/
def Loader.statusWord (l : Loader) : Word := word (loadStateCode l.state + 256 * loadOutcomeCode l.outcome)

/-- Word 20: condition, BUSY and permit (R177). -/
def SafetyStore.statusWord (t : SafetyStore) : Word :=
  word (storeCondCode t.cond + 256 * flag t.busy + 65536 * permitCode t.permit)

/-- Word 22 + a. -/
def State.areaWord (s : State) (a : Fin 8) : Word :=
  if s.areaInUse a.val then
    word (sourceCode (s.area a).elected + 256 * sourceCode (s.area a).pin + inUseBit true)
  else word (255 + 256 * 255)

/-- Word 30 + l. -/
def State.lineWord (s : State) (l : Fin 24) : Word :=
  if s.lineInUse l.val then word (condCode (s.line l).cond + inUseBit true) else 0

/-- Whether a glide state is GLIDING. -/
def Glide.isGliding : Glide → Bool
  | .steady _ => false
  | .gliding _ _ _ _ => true

/-- Word 54 + z: ZC's part and TE's part together (R161). -/
def State.zoneWord (s : State) (z : Fin 48) : Word :=
  if s.zoneInUse z.val then
    let g := s.guard z
    let t := s.tap z
    word (feedCode g.state + 256 * flag g.muted + 512 * flag g.yielding + 1024 * flag g.proof
      + 65536 * flag t.glide.isGliding + 16777216 * flag t.pendingTarget.isSome + inUseBit true)
  else 0

/-- A scope's bit (11.2). -/
def scopeCode : Scope → Nat
  | .standing => 0
  | .service => 1

/-- An action's bit (11.2). -/
def actionCode : Action → Nat
  | .note => 0
  | .fence => 1

/-- The first-hit fields of a unit's first word: 0 while the record is absent (R152). -/
def firstHitBits : Option FirstHit → Nat
  | none => 0
  | some h => 1048576 * masterCode h.master + 16777216 * dirCode h.isWrite

/-- Word 102 + 4u + k (11.5, R152). -/
def WatchUnit.statusWord (u : WatchUnit) (k : Nat) : Word :=
  match k with
  | 0 => word (flag u.on + 2 * kindsCode u.kinds + 16 * u.masters.toNat + 256 * scopeCode u.scope
      + 4096 * actionCode u.action + 65536 * flag u.hitFlag + firstHitBits u.firstHit)
  | 1 => word u.hits
  | 2 => (u.firstHit.map fun h => addrWord h.addr).getD 0
  | _ => (u.firstHit.bind (·.data)).getD 0

/-- The value a status-block offset is to show (11.5, R161). -/
def State.statusWord (s : State) (off : Nat) : Word :=
  if off = 16 then word (deviceCode s.command.device)
  else if off = 17 then s.loader.statusWord
  else if off = 18 then word s.writer.head.toNat
  else if off = 19 then word s.writer.total
  else if off = 20 then s.store.statusWord
  else if off = 21 then word (flag s.yieldLevel)
  else if off < 30 then s.areaWord (Fin.ofNat 8 (off - 22))
  else if off < 54 then s.lineWord (Fin.ofNat 24 (off - 30))
  else if off < 102 then s.zoneWord (Fin.ofNat 48 (off - 54))
  else (s.unit (Fin.ofNat 4 ((off - 102) / 4))).statusWord ((off - 102) % 4)

/-- A report's word 0: kind, subject, dropped-before (11.4). -/
def Report.word0 (r : Report) : Word := word (reportCode r.kind + 256 * r.subject + 65536 * r.droppedBefore)

end Sys2Proof.Machine
end

