-- ==== Sys2Proof/Machine/Ops.lean ====
section
/-!
DEFINITION. The shared operations: memory, records, the own-access engine's queues, and what every block asks of RW:
a report (R154 to R156) and a status change (R161), with RW's choice of work (R157, R162).
-/
namespace Sys2Proof.Machine

/-! ### Memory (0.6) -/

/-- What an address that nothing is listed for reads as: DESIGN CHOICE 0 (assumption log 10). -/
def Memory.unlisted : Word := 0

/-- The word at an address. -/
def Memory.read : Memory → Nat → Word
  | [], _ => Memory.unlisted
  | (b, w) :: rest, a => if a = b then w else Memory.read rest a

/-- Memory with a word written; the canonical form is kept, so writing what an unlisted address reads as removes the
entry. -/
def Memory.write : Memory → Nat → Word → Memory
  | [], a, v => if v = Memory.unlisted then [] else [(a, v)]
  | (b, w) :: rest, a, v =>
    if a < b then (if v = Memory.unlisted then (b, w) :: rest else (a, v) :: (b, w) :: rest)
    else if a = b then (if v = Memory.unlisted then rest else (b, v) :: rest)
    else (b, w) :: Memory.write rest a v

/-- The canonical form: addresses strictly rising and within the address range, and nothing listed that an unlisted
address reads as. -/
abbrev Memory.wf (m : Memory) : Prop :=
  m.Pairwise (fun x y => x.1 < y.1) ∧ ∀ c ∈ m, c.2 ≠ Memory.unlisted ∧ c.1 < 67108864

/-- The memory word at an address, as software reading memory plainly would find it. -/
def State.memRead (s : State) (a : Addr) : Word := s.mem.read a.toNat

/-- A memory write made at the downstream port. -/
def State.memWrite (s : State) (a : Addr) (v : Word) : State := { s with mem := s.mem.write a.toNat v }

/-! ### Records -/

/-- Replaces a line record. -/
def State.setLine (s : State) (l : Fin 24) (r : LineRec) : State := { s with lines := s.lines.set l.val r }

/-- Replaces an area record. -/
def State.setArea (s : State) (a : Fin 8) (r : AreaRec) : State := { s with areas := s.areas.set a.val r }

/-- Replaces a zone tap record. -/
def State.setTap (s : State) (z : Fin 48) (r : TapRec) : State := { s with taps := s.taps.set z.val r }

/-- Replaces a zone guard record. -/
def State.setGuard (s : State) (z : Fin 48) (r : GuardRec) : State := { s with guards := s.guards.set z.val r }

/-- Replaces a watch unit record. -/
def State.setUnit (s : State) (u : Fin 4) (r : WatchUnit) : State := { s with watch := s.watch.set u.val r }

/-- Replaces PL's state. -/
def State.setLoader (s : State) (l : Loader) : State := { s with loader := l }

/-- Replaces CU's state. -/
def State.setCommand (s : State) (c : CommandUnit) : State := { s with command := c }

/-- Replaces RW's state. -/
def State.setWriter (s : State) (w : ReportWriter) : State := { s with writer := w }

/-- Replaces SS's state. -/
def State.setStore (s : State) (t : SafetyStore) : State := { s with store := t }

/-- Replaces MP's state. -/
def State.setPath (s : State) (p : MemPath) : State := { s with path := p }

/-- Does a block's work for each record of a list in turn. -/
def forEach {α : Type} (l : List α) (f : α → State → State) (s : State) : State := l.foldl (fun t x => f x t) s

/-! ### The own-access engine's queues (R97) -/

/-- The client an own access belongs to (R97). -/
def OwnAccess.client : OwnAccess → Client
  | .planRead _ => .pl
  | .detailWrite _ _ => .cu
  | .answerWrite _ => .cu
  | .entryWrite _ _ _ => .rw
  | .headWrite _ => .rw
  | .statusWrite _ _ => .rw
  | .imageWrite _ _ => .ss

/-- The plan-area offset of an own access (R92). -/
def OwnAccess.offset : OwnAccess → Nat
  | .planRead off => off
  | .detailWrite n _ => 6 + n.val
  | .answerWrite _ => 1
  | .entryWrite i k _ => 256 + 4 * i.toNat + k.val
  | .headWrite _ => 18
  | .statusWrite off _ => off
  | .imageWrite i _ => 512 + i.val

/-- The word an own write writes; a read has none. -/
def OwnAccess.data : OwnAccess → Option Word
  | .planRead _ => none
  | .detailWrite _ v => some v
  | .answerWrite v => some v
  | .entryWrite _ _ v => some v
  | .headWrite i => some (word i.toNat)
  | .statusWrite _ v => some v
  | .imageWrite _ v => some v

/-- A client's accesses issued and not yet made, oldest first. -/
def MemPath.issued (p : MemPath) : Client → List OwnAccess
  | .pl => p.ownPL
  | .cu => p.ownCU
  | .rw => p.ownRW
  | .ss => p.ownSS

/-- Replaces a client's accesses. -/
def MemPath.setIssued (p : MemPath) (c : Client) (l : List OwnAccess) : MemPath :=
  match c with
  | .pl => { p with ownPL := l }
  | .cu => { p with ownCU := l }
  | .rw => { p with ownRW := l }
  | .ss => { p with ownSS := l }

/-- A client issues accesses; they join its others in the order issued (R98). -/
def State.issue (s : State) (c : Client) (l : List OwnAccess) : State :=
  s.setPath (s.path.setIssued c (s.path.issued c ++ l))

/-! ### RW's work (R157, R161, R162) -/

/-- The five writes of a report at a ring index (R157). -/
def reportWrites (r : Report) (i : BitVec 6) : List OwnAccess :=
  [.entryWrite i 0 r.word0, .entryWrite i 1 r.stamp, .entryWrite i 2 r.detailA, .entryWrite i 3 r.detailB,
    .headWrite (i + 1)]

/-- R157: RW begins the report at the front of its queue, if there is one. -/
def State.beginReport (s : State) : State :=
  match s.writer.queue with
  | [] => s
  | r :: _ => (s.setWriter { s.writer with work := .report }).issue .rw (reportWrites r s.writer.head)

/-- R161, R162: RW issues the write of the lowest dirty status word, if there is one, with the value it is to show at
that moment. -/
def State.issueStatus (s : State) : State :=
  match s.writer.dirty with
  | [] => s
  | off :: rest =>
    (s.setWriter { s.writer with dirty := rest, work := .status }).issue .rw [.statusWrite off (s.statusWord off)]

/-- R162: a report first, a status word if no report waits. -/
def State.reportFirst (s : State) : State :=
  if s.writer.queue = [] then s.issueStatus else s.beginReport

/-- R162: a status word first, a report if none is dirty. -/
def State.statusFirst (s : State) : State :=
  if s.writer.dirty = [] then s.beginReport else s.issueStatus

/-- R162, R163: RW chooses its next work if it is free; during STARTING it writes status words only. -/
def State.chooseWork (s : State) : State :=
  if s.writer.work = .free then
    (if s.command.device = .starting then s.issueStatus else s.reportFirst)
  else s

/-- Adds an offset to a rising list without repeats (R161). -/
def insertOffset (off : Nat) : List Nat → List Nat
  | [] => [off]
  | x :: rest => if off < x then off :: x :: rest else if off = x then x :: rest else x :: insertOffset off rest

/-- R161: a status change of these offsets. -/
def State.statusChanges (s : State) (offs : List Nat) : State :=
  (s.setWriter { s.writer with dirty := offs.foldl (fun d o => insertOffset o d) s.writer.dirty }).chooseWork

/-- R161: a status change of one offset. -/
def State.statusChange (s : State) (off : Nat) : State := s.statusChanges [off]

/-- R155: whether RW accepts a request now. -/
def ReportWriter.accepts (w : ReportWriter) : Bool :=
  w.queue.length < 8 && w.occupancy + w.queue.length + 1 ≤ 63

/-- R154 to R156: a block requests a report, with the last frame stamp (R126). An accepted one joins the queue with the
dropped count; a refused one is counted, and word 19 changes. -/
def State.request (s : State) (kind : ReportKind) (subject : Nat) (a b : Word) : State :=
  if s.writer.accepts then
    (s.setWriter { s.writer with
      queue := s.writer.queue ++ [⟨kind, subject, s.command.lastStamp, a, b, s.writer.dropped⟩]
      dropped := 0 }).chooseWork
  else
    (s.setWriter { s.writer with
      dropped := countUp s.writer.dropped
      total := min 4294967295 (s.writer.total + 1) }).statusChange 19

/-- Status-block offsets of records (11.5). -/
def areaOffset (a : Fin 8) : Nat := 22 + a.val

/-- The condition word of a line (R15). -/
def lineOffset (l : Fin 24) : Nat := 30 + l.val

/-- The word of a zone (R63, R85). -/
def zoneOffset (z : Fin 48) : Nat := 54 + z.val

/-- The four words of a watch unit (R152). -/
def unitOffsets (u : Fin 4) : List Nat := List.range' (102 + 4 * u.val) 4

/-- FOREIGN_WRITE for a word: the subject, the upstream address and the master tag (R9, R60, R69, R94, R172). -/
def State.foreignWrite (s : State) (subject : Nat) (w : UpWord) : State :=
  s.request .foreignWrite subject (addrWord w.addr) (word (masterCode w.master))

end Sys2Proof.Machine
end

