-- ==== Sys2Proof/Machine/Taps.lean ====
section
/-!
DEFINITION. The tap engine (chapter 3): answers to tap reads, retarget notices, frame marks, plans coming and going.
-/
namespace Sys2Proof.Machine

/-! ### What an owner asks of MP for a word (R89) -/

/-- An owner's treatment of a word: the accesses MP makes and how the answer is formed from them, or no access and the
answer given (absent for a write). -/
inductive Treatment where
  | access (accesses : List Access) (form : Form)
  | complete (answer : Option Word)
  deriving DecidableEq, Repr

/-- A plain word: one access at the upstream address, data unchanged (R87, R89). -/
def plainTreatment (w : UpWord) : Treatment :=
  match w.dir with
  | .read => .access [.read w.addr] .plain
  | .write v => .access [.write w.addr v] .store

/-- A dropped write: no access (R89). -/
def droppedTreatment : Treatment := .complete none

/-- An altered write: one access at the upstream address with the owner's data (R89). -/
def alteredTreatment (w : UpWord) (v : Word) : Treatment := .access [.write w.addr v] .store

/-! ### Positions and bounds (3.3) -/

/-- R43: the position of word j at a delay, anchor − F − d + j modulo 2^32. -/
def tapPosition (anchor : Word) (frameLen delay j : Nat) : Word := anchor - word frameLen - word delay + word j

/-- R45: the difference head − p as a signed 32-bit value. -/
def tapDistance (head position : Word) : Int := (head - position).toInt

/-- How a position stands to the samples in memory (R45). -/
inductive Bound where
  | good | early | late
  deriving DecidableEq, Repr

/-- R45: good between 1 and the length, early below, late above. -/
def classify (distance : Int) (length : Nat) : Bound :=
  if distance < 1 then .early else if (length : Int) < distance then .late else .good

/-- R43: where the sample at a position lies in line memory. -/
def sampleAddr (base length : Nat) (position : Word) : Addr := BitVec.ofNat 26 (base + position.toNat % length)

/-! ### Blend and trim (3.5, 3.8) -/

/-- R49: the weight of word j in step k over G frames of F samples. -/
def blendWeight (frameLen length step j : Nat) : Nat := 256 * (step * frameLen + j) / (length * frameLen)

/-- R49: the blend of two samples, rounded toward negative infinity. -/
def blend (weight : Nat) (xa xb : Int) : Int := Int.fdiv (xa * (256 - weight) + xb * weight) 256

/-- R56: a sample trimmed, rounded toward negative infinity, before the clamp. -/
def trimmed (trim : Nat) (x : Int) : Int := Int.fdiv (x * trim) 1024

/-- R56: whether a trimmed answer saturates. -/
def trimSaturates (trim : Nat) (x : Int) : Bool := clampLegal (trimmed trim x) != trimmed trim x

/-- R56: the trimmed answer as a word. -/
def trimAnswer (trim : Nat) (x : Int) : Word := ofSample (clampLegal (trimmed trim x))

/-! ### Tap reads (3.1, 3.3 to 3.9) -/

/-- R46: a position found early or late requests its report once per zone and frame; a good one does nothing. -/
def teBoundFailure (z : Fin 48) (delay : Nat) (distance : Int) (bound : Bound) (s : State) : State :=
  let r := s.tap z
  match bound with
  | .good => s
  | .early =>
    if r.earlyReported then s
    else (s.setTap z { r with earlyReported := true }).request .tapEarly z.val (word delay) (ofSample distance)
  | .late =>
    if r.lateReported then s
    else (s.setTap z { r with lateReported := true }).request .tapLate z.val (word delay) (ofSample distance)

/-- R58: the loop-around word of word j of a zone, in the half CORE last wrote. -/
def loopAroundAddr (p : Plan) (z : Fin 48) (half j : Nat) : Addr :=
  BitVec.ofNat 26 (p.zoneBase + 2 * p.frameLen * z.val + half * p.frameLen + j)

/-- R45, R47: a STEADY zone's read once its line is RUNNING. -/
def teSteadyRead (p : Plan) (z : Fin 48) (j : Nat) (line : Fin 24) (delay : Nat) (s : State) : State × Treatment :=
  let r := s.line line
  let len := p.lineLen line.val
  let pos := tapPosition r.anchor p.frameLen delay j
  let dist := tapDistance r.head pos
  match classify dist len with
  | .good => (s, .access [.read (sampleAddr (p.lineBase line.val) len pos)] (.steady z (s.tap z).trim))
  | .early => (teBoundFailure z delay dist .early s, .complete (some voidCode))
  | .late => (teBoundFailure z delay dist .late s, .complete (some voidCode))

/-- R45, R46, R48: a GLIDING zone's read once its line is RUNNING; both positions are classified, a first. -/
def teGlidingRead (p : Plan) (z : Fin 48) (j : Nat) (line : Fin 24) (a b step length : Nat) (s : State) :
    State × Treatment :=
  let r := s.line line
  let len := p.lineLen line.val
  let posA := tapPosition r.anchor p.frameLen a j
  let posB := tapPosition r.anchor p.frameLen b j
  let boundA := classify (tapDistance r.head posA) len
  let boundB := classify (tapDistance r.head posB) len
  if boundA = .good ∧ boundB = .good then
    (s, .access [.read (sampleAddr (p.lineBase line.val) len posA), .read (sampleAddr (p.lineBase line.val) len posB)]
      (.blend z (blendWeight p.frameLen length step j) (s.tap z).trim))
  else
    (teBoundFailure z b (tapDistance r.head posB) boundB (teBoundFailure z a (tapDistance r.head posA) boundA s),
      .complete (some voidCode))

/-- R40: a tap read of word j of zone z, by the first step that yields an answer. -/
def teRead (p : Plan) (z : Fin 48) (j : Nat) (s : State) : State × Treatment :=
  let line := lineNo (p.programLine z.val)
  if (s.guard z).proof then
    (s, .access [.read (loopAroundAddr p z (s.guard z).lastHalf.val j)] .plain)
  else
    match (s.line line).cond with
    | .idle => (s, .complete (some voidCode))
    | .synced => (s, .complete (some voidCode))
    | .faulted => (s, .complete (some voidCode))
    | .running =>
      match (s.tap z).glide with
      | .steady d => teSteadyRead p z j line d s
      | .gliding a b k g => teGlidingRead p z j line a b k g s

/-- R60: a write to the aperture is dropped and asks for FOREIGN_WRITE. -/
def teWrite (z : Fin 48) (w : UpWord) (s : State) : State × Treatment := (s.foreignWrite z.val w, droppedTreatment)

/-- R57: a saturated answer adds 1 to the zone's count, which stops at 65,535. -/
def teSaturate (z : Fin 48) (s : State) : State :=
  s.setTap z { s.tap z with saturations := countUp (s.tap z).saturations }

/-! ### Notices and frame marks (3.6, 3.7) -/

/-- The delay a zone is heading to (3.2). -/
def Glide.heading : Glide → Nat
  | .steady d => d
  | .gliding _ b _ _ => b

/-- R50: the pending target after a notice. -/
def noticed (r : TapRec) (target : Nat) : Option Nat := if target = r.glide.heading then none else some target

/-- R50: a zone takes a retarget notice; a status change when the pending target appears or goes. -/
def teNotice (z : Fin 48) (target : Nat) (s : State) : State :=
  let r := s.tap z
  let r' := { r with pendingTarget := noticed r target }
  if r'.pendingTarget.isSome = r.pendingTarget.isSome then s.setTap z r'
  else (s.setTap z r').statusChange (zoneOffset z)

/-- R54: what a STEADY zone does at a mark with its pending target, under the area's glide frames. -/
def steadyMark (delay : Nat) (target : Option Nat) (glideFrames : Nat) : Glide :=
  match target with
  | none => .steady delay
  | some t => if t = delay then .steady delay else .gliding delay t 0 glideFrames

/-- R53, R54, R55: a tap record after a frame mark. -/
def markedTap (r : TapRec) (glideFrames : Nat) : TapRec :=
  match r.glide with
  | .gliding a b k g =>
    if k + 1 < g then { r with glide := .gliding a b (k + 1) g, earlyReported := false, lateReported := false }
    else { r with
      glide := steadyMark b r.pendingTarget glideFrames
      pendingTarget := none, earlyReported := false, lateReported := false }
  | .steady d => { r with
      glide := steadyMark d r.pendingTarget glideFrames
      pendingTarget := none, earlyReported := false, lateReported := false }

/-- R53, R54: whether a mark is a status change for the zone: a glide ends or begins, or a pending target goes. -/
def markChangesTap (r : TapRec) : Bool :=
  match r.glide with
  | .gliding _ _ k g => !(k + 1 < g)
  | .steady _ => r.pendingTarget.isSome

/-- R52 to R55: TE's work for one zone at a mark, under the plan live before it. -/
def teMarkZone (p : Plan) (z : Fin 48) (s : State) : State :=
  let r := s.tap z
  let s' := s.setTap z (markedTap r (p.glideFrames (p.zoneArea z.val)))
  if markChangesTap r then s'.statusChange (zoneOffset z) else s'

/-- R52, R53: TE's work at a frame mark. That the zones are taken in rising order, which decides the status word a free
RW begins with (R162), is the model's choice (assumption log 30). -/
def teMark (p : Plan) (s : State) : State := forEach p.zonesInUse (teMarkZone p) s

/-! ### Plans coming and going (3.11), TALLY -/

/-- R41: a zone's tap record when it comes into use. -/
def TapRec.start (p : Plan) (z : Fin 48) : TapRec where
  glide := .steady (p.restDelay z.val)
  pendingTarget := none
  trim := p.trim z.val
  saturations := 0
  earlyReported := false
  lateReported := false

/-- R41: the tap records at an installation from COLD. -/
def installedTaps (p : Plan) : Vector TapRec 48 :=
  Vector.ofFn fun z => if z.val < p.zoneCount then TapRec.start p z else TapRec.unused

/-- R61: at a swap each zone's current trim becomes the new plan's. -/
def teSwapZone (p : Plan) (z : Fin 48) (s : State) : State := s.setTap z { s.tap z with trim := p.trim z.val }

/-- R61: TE takes the new plan. -/
def teSwap (p : Plan) (s : State) : State := forEach p.zonesInUse (teSwapZone p) s

/-- R57: TALLY takes a zone's saturation count and leaves 0. -/
def teClearCount (z : Fin 48) (s : State) : State := s.setTap z { s.tap z with saturations := 0 }

end Sys2Proof.Machine
end

