-- ==== Sys2Proof/Machine/Election.lean ====
section
/-!
DEFINITION. The source election unit (chapter 2): level reports, collections, decisions, switches, PIN and FREE.
-/
namespace Sys2Proof.Machine

/-! ### Decisions (2.4) -/

/-- R28: an envelope less its decay, the division rounded down. -/
def decayed (shift e : Nat) : Nat := e - e / 2 ^ shift

/-- R28: an envelope brought up to date by its candidate's report. -/
def nextEnvelope (shift e : Nat) (l : Level) : Nat :=
  match l.cond with
  | .idle => 0
  | .faulted => 0
  | .synced => max (decayed shift e) l.peak
  | .running => max (decayed shift e) l.peak

/-- R28: the record with its envelopes brought up to date and its dwell count advanced, stopping at 255. -/
def weighed (p : Plan) (a : Fin 8) (r : AreaRec) : AreaRec :=
  { r with
    envelope := Vector.ofFn fun i =>
      if i.val < p.candCount a.val then nextEnvelope (p.decayShift a.val) (r.level i) (r.report i) else r.level i
    dwell := min 255 (r.dwell + 1) }

/-- R29: whether a candidate of a weighed record is eligible. -/
def eligible (p : Plan) (a : Fin 8) (r : AreaRec) (i : Fin 8) : Bool :=
  ((r.report i).cond = .running || (r.report i).cond = .synced) && p.threshold a.val ≤ r.level i

/-- The eligible candidates of a weighed record, in index order (R29). -/
def eligibles (p : Plan) (a : Fin 8) (r : AreaRec) : List (Fin 8) := (p.candidates a).filter (eligible p a r)

/-- R29, R30: of candidates in index order, the one with the greatest envelope, the lowest index among equals. -/
def loudest (r : AreaRec) (l : List (Fin 8)) : Option (Fin 8) :=
  l.foldl (fun best i =>
    match best with
    | none => some i
    | some b => if r.level b < r.level i then some i else some b) none

/-- What an unpinned decision does to the source. -/
inductive Verdict where
  | keep (quiet : Nat)
  | switch (source : Option (Fin 8))
  deriving DecidableEq, Repr

/-- R29: the decision when the elected source c is eligible. -/
def challenge (p : Plan) (a : Fin 8) (r : AreaRec) (c : Fin 8) : Verdict :=
  match loudest r ((eligibles p a r).filter (· ≠ c)) with
  | none => .keep 0
  | some d =>
    if p.dwellFrames a.val ≤ r.dwell ∧ r.level c + p.margin a.val ≤ r.level d then .switch (some d) else .keep 0

/-- R30: the decision when c is NONE or not eligible. -/
def replacement (p : Plan) (a : Fin 8) (r : AreaRec) : Verdict :=
  match loudest r (eligibles p a r), r.elected with
  | some d, _ => .switch (some d)
  | none, none => .keep r.quiet
  | none, some c =>
    if (r.report c).cond = .faulted then .switch none
    else if p.releaseFrames a.val ≤ r.quiet + 1 then .switch none
    else .keep (r.quiet + 1)

/-- R29, R30: an unpinned decision from a weighed record. -/
def verdict (p : Plan) (a : Fin 8) (r : AreaRec) : Verdict :=
  match r.elected with
  | none => replacement p a r
  | some c => if c ∈ eligibles p a r then challenge p a r c else replacement p a r

/-- R32: one notice to each zone of the area, naming its row entry for the new source; in rising order (assumption
log 30). -/
def seNotices (p : Plan) (a : Fin 8) (source : Fin 8) (s : State) : State :=
  forEach (p.zonesOf a) (fun z => teNotice z (p.rowEntry z.val source.val)) s

/-- R31: a switch of an area, whose record is otherwise r, to a source. -/
def seSwitch (p : Plan) (a : Fin 8) (r : AreaRec) (source : Option (Fin 8)) (s : State) : State :=
  let s' := ((s.setArea a { r with elected := source, dwell := 0, quiet := 0 }).request .elected a.val
    (word (sourceCode r.elected)) (word (sourceCode source))).statusChange (areaOffset a)
  match source with
  | none => s'
  | some i => seNotices p a i s'

/-- R28 to R31: SE decides an area's collection. -/
def seDecide (p : Plan) (a : Fin 8) (s : State) : State :=
  let r := weighed p a (s.area a)
  if r.pin.isSome then s.setArea a r
  else
    match verdict p a r with
    | .keep q => s.setArea a { r with quiet := q }
    | .switch source => seSwitch p a r source s

/-- R26, R27: an emptied collection. -/
def AreaRec.emptied (r : AreaRec) : AreaRec := { r with stamp := none, collection := Vector.replicate 8 none }

/-- R26, R27: SE decides a collection and then empties it. -/
def seDecideAndEmpty (p : Plan) (a : Fin 8) (s : State) : State :=
  let s' := seDecide p a s
  s'.setArea a (s'.area a).emptied

/-! ### Level reports (2.3) -/

/-- R27: a collection that holds a report under every candidate index. -/
def AreaRec.complete (p : Plan) (a : Fin 8) (r : AreaRec) : Bool :=
  (p.candidates a).all fun i => (r.collection[i.val]).isSome

/-- R25: a report filed under its index; the stamp is the report's. -/
def AreaRec.filed (r : AreaRec) (i : Fin 8) (stamp : Word) (l : Level) : AreaRec :=
  { r with stamp := some stamp, collection := r.collection.set i.val (some l) }

/-- R26: whether a stamp closes the collection held. -/
def AreaRec.closedBy (r : AreaRec) (stamp : Word) : Bool :=
  match r.stamp with
  | none => false
  | some t => t != stamp

/-- R24 to R27: an area takes a level report; in SERVICE only. -/
def seTake (p : Plan) (a : Fin 8) (i : Fin 8) (stamp : Word) (l : Level) (s : State) : State :=
  if s.command.device = .service then
    let s1 := if (s.area a).closedBy stamp then seDecideAndEmpty p a s else s
    let s2 := s1.setArea a ((s1.area a).filed i stamp l)
    if AreaRec.complete p a (s2.area a) then seDecideAndEmpty p a s2 else s2
  else s

/-! ### PIN, FREE, ARM, DISARM (2.5, 2.6) -/

/-- R33: PIN of an area to a candidate index. -/
def sePin (p : Plan) (a : Fin 8) (i : Fin 8) (s : State) : State :=
  let r := { s.area a with pin := some i, quiet := 0 }
  if r.elected = some i then (s.setArea a r).statusChange (areaOffset a) else seSwitch p a r (some i) s

/-- R34: FREE of an area. -/
def seFree (a : Fin 8) (s : State) : State :=
  if (s.area a).pin.isSome then (s.setArea a { s.area a with pin := none }).statusChange (areaOffset a) else s

/-- R35: an area at ARM, fresh, with its status change. -/
def seArmArea (a : Fin 8) (s : State) : State := (s.setArea a AreaRec.fresh).statusChange (areaOffset a)

/-- R35: ARM sets every area in use fresh, in rising order (assumption log 30). -/
def seArm (p : Plan) (s : State) : State := forEach p.areasInUse seArmArea s

/-- R35: an area at DISARM: source NONE, no pin, no collection, envelopes and counts 0. -/
def seDisarmArea (a : Fin 8) (s : State) : State := (s.setArea a AreaRec.fresh).statusChange (areaOffset a)

/-- R35: DISARM; then every zone in use is sent its rest delay; areas and zones in rising order (assumption log 30). -/
def seDisarm (p : Plan) (s : State) : State :=
  forEach p.zonesInUse (fun z => teNotice z (p.restDelay z.val)) (forEach p.areasInUse seDisarmArea s)

/-! ### Plan swap (2.7) -/

/-- R36: at a swap the envelope of a candidate index whose line differs between the plans becomes 0. -/
def seSwapArea (old new : Plan) (a : Fin 8) (s : State) : State :=
  let r := s.area a
  s.setArea a { r with
    envelope := Vector.ofFn fun i =>
      if i.val < new.candCount a.val ∧ old.candLine a.val i.val ≠ new.candLine a.val i.val then 0 else r.level i }

/-- R36: SE takes the new plan. -/
def seSwap (old new : Plan) (s : State) : State := forEach new.areasInUse (seSwapArea old new) s

/-- R118: PL's notice to a zone after a swap, if its area's source is a candidate. -/
def swapNotice (p : Plan) (z : Fin 48) (s : State) : State :=
  match (s.area (areaNo (p.zoneArea z.val))).elected with
  | none => s
  | some i => teNotice z (p.rowEntry z.val i.val) s

/-- R118: how many notices PL sends at a swap. -/
def swapNoticeCount (p : Plan) (s : State) : Nat :=
  (p.zonesInUse.filter fun z => (s.area (areaNo (p.zoneArea z.val))).elected.isSome).length

end Sys2Proof.Machine
end

