-- ==== Sys2Proof/Machine/LineTracker.lean ====
section
/-!
DEFINITION. The line tracker (chapter 1): writer writes, foreign writes, frame marks, CLEAR, plans coming and going.
-/
namespace Sys2Proof.Machine

/-! ### Writer writes (1.3) -/

/-- R3: what every writer write does to the record: write seen, and the frame peak raised to the clamped magnitude. -/
def LineRec.taken (r : LineRec) (c : Int) : LineRec := { r with writeSeen := true, peak := max r.peak c.natAbs }

/-- R7: the magnitude of the jump an accepted sample makes, if it makes one. -/
def jumpOf (r : LineRec) (threshold : Nat) (c : Int) : Option Nat :=
  match r.prev with
  | none => none
  | some x => if threshold ≠ 0 ∧ threshold < (c - x).natAbs then some (c - x).natAbs else none

/-- R5: a sync at offset o. -/
def ltSync (l : Fin 24) (o : Nat) (r : LineRec) (s : State) : State :=
  (s.setLine l { r with head := word (o + 1), prev := none, cond := .synced }).statusChange (lineOffset l)

/-- R7: a jump found on the sample at running position `pos`. -/
def ltJump (l : Fin 24) (pos : Word) (size : Nat) (r : LineRec) (s : State) : State :=
  let faulted := { r with jumpSeen := true, quiet := 0, cond := .faulted }
  match r.cond with
  | .faulted => s.setLine l faulted
  | .idle => ((s.setLine l faulted).request .lineFault l.val pos (word size)).statusChange (lineOffset l)
  | .synced => ((s.setLine l faulted).request .lineFault l.val pos (word size)).statusChange (lineOffset l)
  | .running => ((s.setLine l faulted).request .lineFault l.val pos (word size)).statusChange (lineOffset l)

/-- R6: an accepted write of the clamped sample c. -/
def ltAccept (p : Plan) (l : Fin 24) (c : Int) (r : LineRec) (s : State) : State :=
  let r' := { r with head := r.head + 1, prev := some c }
  match jumpOf r (p.jumpThreshold l.val) c with
  | none => s.setLine l r'
  | some size => ltJump l r.head size r' s

/-- R8: the record after a resync at offset o. -/
def LineRec.resynced (r : LineRec) (o : Nat) : LineRec :=
  { r with
    head := word (o + 1), prev := none, anchorValid := false, resyncReported := true
    cond := if r.cond = .running then .synced else r.cond
    quiet := if r.cond = .faulted then 0 else r.quiet }

/-- R8: a resync at offset o, where the head expected another. -/
def ltResync (l : Fin 24) (o expected : Nat) (r : LineRec) (s : State) : State :=
  let s1 := s.setLine l (r.resynced o)
  let s2 := if r.resyncReported then s1 else s1.request .lineResync l.val (word o) (word expected)
  if r.cond = .running then s2.statusChange (lineOffset l) else s2

/-- R4: head mod length, the offset the head expects. -/
def expectedOffset (p : Plan) (l : Fin 24) (r : LineRec) : Nat := r.head.toNat % p.lineLen l.val

/-- R3, R4: a writer write of v at offset o is clamped and sorted into a sync, an accepted write or a resync. -/
def ltWriterWrite (p : Plan) (l : Fin 24) (o : Nat) (v : Word) (s : State) : State :=
  let c := legalSample v
  let r := (s.line l).taken c
  match r.cond with
  | .idle => ltSync l o r s
  | .synced => if o = expectedOffset p l r then ltAccept p l c r s else ltResync l o (expectedOffset p l r) r s
  | .running => if o = expectedOffset p l r then ltAccept p l c r s else ltResync l o (expectedOffset p l r) r s
  | .faulted => if o = expectedOffset p l r then ltAccept p l c r s else ltResync l o (expectedOffset p l r) r s

/-- R9: a foreign write is dropped and reported once per frame. -/
def ltForeignWrite (l : Fin 24) (w : UpWord) (s : State) : State :=
  if (s.line l).foreignReported then s
  else (s.setLine l { s.line l with foreignReported := true }).foreignWrite l.val w

/-- R1, R89: LT's treatment of a word in a line memory. -/
def ltWord (p : Plan) (l : Fin 24) (o : Nat) (w : UpWord) (s : State) : State × Treatment :=
  match w.dir with
  | .read => (s, plainTreatment w)
  | .write v =>
    if p.isWriter l w.master then (ltWriterWrite p l o v s, alteredTreatment w (ofSample (legalSample v)))
    else (ltForeignWrite l w s, droppedTreatment)

/-! ### Frame marks (1.4) -/

/-- R10: the anchor latched from the head. -/
def LineRec.latched (r : LineRec) : LineRec := { r with anchor := r.head, anchorValid := true }

/-- R11: whether the frame just ended counts towards recovery. -/
def LineRec.cleanFrame (r : LineRec) : Bool := r.writeSeen && !r.jumpSeen

/-- R10, R11: LT's work for one line at a mark. -/
def ltMarkLine (p : Plan) (l : Fin 24) (s : State) : State :=
  let r := (s.line l).latched
  match r.cond with
  | .idle => s
  | .synced => (s.setLine l { r with cond := .running }).statusChange (lineOffset l)
  | .running => s.setLine l r
  | .faulted =>
    if r.cleanFrame then
      if p.recoverFrames l.val ≤ r.quiet + 1 then
        ((s.setLine l { r with cond := .running, quiet := 0 }).request .lineRecovered l.val r.head
          (word (r.quiet + 1))).statusChange (lineOffset l)
      else s.setLine l { r with quiet := r.quiet + 1 }
    else s.setLine l r

/-- R12: a candidate line's level report to one area, if the area lists it. -/
def ltReportTo (p : Plan) (stamp : Word) (l : Fin 24) (a : Fin 8) (s : State) : State :=
  match p.candidateIndex a l with
  | none => s
  | some i => seTake p a i stamp ⟨(s.line l).cond, (s.line l).peak⟩ s

/-- R12: a CANDIDATE line's level reports, to its areas in rising order, which no rule fixes (assumption log 30); a
PROGRAM line sends none. -/
def ltReports (p : Plan) (stamp : Word) (l : Fin 24) (s : State) : State :=
  if p.lineRole l.val = 1 then forEach p.areasInUse (ltReportTo p stamp l) s else s

/-- R13: the frame peak and the four frame flags cleared. -/
def ltClearFrame (l : Fin 24) (s : State) : State :=
  s.setLine l { s.line l with
    peak := 0, jumpSeen := false, writeSeen := false, resyncReported := false, foreignReported := false }

/-- R10 to R13: LT's work at a frame mark, with SE's decisions on the level reports it sends (R24). That the lines are
taken in rising order, first all for R10 and R11, then all for R12, then all for R13, and with them the order of
LINE_RECOVERED and of ELECTED requests of one mark, is the model's choice (assumption log 30; 1.4 leaves it open). -/
def ltMark (p : Plan) (stamp : Word) (s : State) : State :=
  forEach p.linesInUse ltClearFrame (forEach p.linesInUse (ltReports p stamp) (forEach p.linesInUse (ltMarkLine p) s))

/-! ### CLEAR (1.5) -/

/-- R14: CLEAR of one line. -/
def ltClear (l : Fin 24) (s : State) : State :=
  let r := s.line l
  if r.cond = .faulted then
    (s.setLine l { r with cond := if r.anchorValid then .running else .synced, quiet := 0 }).statusChange (lineOffset l)
  else s

end Sys2Proof.Machine
end

