-- ==== Sys2Proof/Machine/Zones.lean ====
section
/-!
DEFINITION. The zone output controller (chapter 4): zone writes, output reads, the watchdog, MUTE and PROOF, YIELD,
changes of safety entries.
-/
namespace Sys2Proof.Machine

/-! ### Words of a zone buffer (4.3, 4.6) -/

/-- R67: a written word after the clamps against the legal range and the ceiling. -/
def zoneClamp (ceiling : Nat) (v : Word) : Int := clampTo ceiling (legalSample v)

/-- R67: a guard record after a zone write to a half of F-word halves. -/
def GuardRec.written (r : GuardRec) (frameLen : Nat) (half : Fin 2) (altered : Bool) : GuardRec :=
  { r with
    fed := min (2 * frameLen) (r.fed + 1)
    lastHalf := half
    ceilingCount := if altered then countUp r.ceilingCount else r.ceilingCount }

/-- R67: a zone write. -/
def zcWrite (p : Plan) (z : Fin 48) (half : Fin 2) (v : Word) (w : UpWord) (s : State) : State × Treatment :=
  let x := zoneClamp (s.store.effective z).ceiling v
  (s.setGuard z ((s.guard z).written p.frameLen half (x ≠ sample v)), alteredTreatment w (ofSample x))

/-- R75: ZC's treatment of an output read. -/
def zcOutputRead (z : Fin 48) (w : UpWord) (s : State) : Treatment :=
  let g := s.guard z
  if g.muted || g.yielding || g.proof then .complete (some 0)
  else
    match g.state with
    | .dormant => .complete (some 0)
    | .live => .access [.read w.addr] .checked
    | .lapsing => .access [.read w.addr] .checked
    | .fallback =>
      match (s.store.effective z).mode with
      | .mute => .complete (some 0)
      | .fade => .access [.read w.addr] (.faded g.fade)

/-- R75, R76: a faded word, rounded toward zero. -/
def fadedSample (level : Nat) (x : Int) : Int := Int.tdiv (x * level) 8

/-- R64, R69, R75: ZC's treatment of a word in the zone buffers. -/
def zcWord (p : Plan) (z : Fin 48) (half : Fin 2) (w : UpWord) (s : State) : State × Treatment :=
  match w.dir, w.master with
  | .read, .outDma => (s, zcOutputRead z w s)
  | .read, .core => (s, plainTreatment w)
  | .read, .inDma => (s, plainTreatment w)
  | .read, .aux => (s, plainTreatment w)
  | .write v, .core => zcWrite p z half v w s
  | .write _, .inDma => (s.foreignWrite z.val w, droppedTreatment)
  | .write _, .outDma => (s.foreignWrite z.val w, droppedTreatment)
  | .write _, .aux => (s.foreignWrite z.val w, droppedTreatment)

/-! ### The watchdog (4.5) -/

/-- R72: a fed zone at a mark. -/
def zcFed (z : Fin 48) (s : State) : State :=
  let g := s.guard z
  let g' := { g with state := .live, miss := 0, fed := 0 }
  match g.state with
  | .live => s.setGuard z g'
  | .dormant => (s.setGuard z g').statusChange (zoneOffset z)
  | .lapsing => (s.setGuard z g').statusChange (zoneOffset z)
  | .fallback =>
    ((s.setGuard z { g' with fade := 7 }).request .zoneState z.val (word (feedCode .live)) (word g.fade)).statusChange
      (zoneOffset z)

/-- R73: a LIVE or LAPSING zone, unfed at a mark. -/
def zcLapse (z : Fin 48) (s : State) : State :=
  let g := s.guard z
  let e := s.store.effective z
  if e.watchFrames = 0 then s.setGuard z { g with fed := 0 }
  else if g.miss + 1 < e.watchFrames then
    let s' := s.setGuard z { g with state := .lapsing, miss := g.miss + 1, fed := 0 }
    if g.state = .lapsing then s' else s'.statusChange (zoneOffset z)
  else
    ((s.setGuard z { g with state := .fallback, miss := e.watchFrames, fade := 7, fed := 0 }).request .zoneState z.val
      (word (feedCode .fallback)) (word e.mode.code)).statusChange (zoneOffset z)

/-- R73: an unfed zone at a mark. -/
def zcUnfed (z : Fin 48) (s : State) : State :=
  let g := s.guard z
  match g.state with
  | .dormant => s.setGuard z { g with miss := 0, fed := 0 }
  | .live => zcLapse z s
  | .lapsing => zcLapse z s
  | .fallback =>
    match (s.store.effective z).mode with
    | .mute => s.setGuard z { g with fed := 0 }
    | .fade => s.setGuard z { g with fade := g.fade - 1, fed := 0 }

/-- R71 to R73: ZC's work for one zone at a mark. -/
def zcMarkZone (p : Plan) (z : Fin 48) (s : State) : State :=
  if p.frameLen ≤ (s.guard z).fed then zcFed z s else zcUnfed z s

/-- R71: ZC's work at a frame mark. That the zones are taken in rising order, which orders the ZONE_STATE requests of
one mark, is the model's choice (assumption log 30). -/
def zcMark (p : Plan) (s : State) : State := forEach p.zonesInUse (zcMarkZone p) s

/-! ### MUTE, PROOF, TALLY (4.7, R68) -/

/-- R77: MUTE of one zone, on or off. -/
def zcMute (on : Bool) (z : Fin 48) (s : State) : State :=
  if (s.guard z).muted = on then s
  else (s.setGuard z { s.guard z with muted := on }).statusChange (zoneOffset z)

/-- R78: PROOF of one zone, once ZC has not refused it. -/
def zcProof (on : Bool) (z : Fin 48) (s : State) : State :=
  if (s.guard z).proof = on then s
  else (s.setGuard z { s.guard z with proof := on }).statusChange (zoneOffset z)

/-- R68: TALLY takes a zone's ceiling count and leaves 0. -/
def zcClearCount (z : Fin 48) (s : State) : State := s.setGuard z { s.guard z with ceilingCount := 0 }

/-! ### YIELD (4.8) -/

/-- R81: a zone at an assertion. -/
def zcAssertZone (z : Fin 48) (s : State) : State :=
  let g := s.guard z
  let g' := { g with yielding := g.yielding || (s.store.effective z).yieldFlag, proof := false }
  if g' = g then s else (s.setGuard z g').statusChange (zoneOffset z)

/-- R82: a zone at a deassertion. -/
def zcDeassertZone (z : Fin 48) (s : State) : State :=
  let g := s.guard z
  if g.yielding then (s.setGuard z { g with yielding := false }).statusChange (zoneOffset z) else s

/-- R80: how many zones in use are YIELDING; none without a live plan. -/
def yieldingCount (s : State) : Nat :=
  match s.loader.live with
  | none => 0
  | some p => (p.zonesInUse.filter fun z => (s.guard z).yielding).length

/-- R79, R81, R82: what an edge does to the zones in use, in rising order (assumption log 30). -/
def zcEdgeZones (level : Bool) (s : State) : State :=
  match s.loader.live with
  | none => s
  | some p => forEach p.zonesInUse (if level then zcAssertZone else zcDeassertZone) s

/-- R79 to R82: ZC takes an edge of YIELD to a level; a level that is no change is no edge. The zones' status changes
come before word 21's (assumption log 31) and the YIELD report after them (18). -/
def zcEdge (level : Bool) (s : State) : State :=
  if s.yieldLevel = level then s
  else
    let s' := (zcEdgeZones level { s with yieldLevel := level }).statusChange 21
    if s.command.device = .starting then s'
    else s'.request .yieldChange 0 (word (flag level)) (word (yieldingCount s'))

/-! ### Changes of the safety entries (4.4, R83) -/

/-- R70: a guard record after its watch frames changed to W′. -/
def GuardRec.rebounded (g : GuardRec) (w' : Nat) : GuardRec :=
  match g.state with
  | .fallback => { g with miss := w' }
  | .dormant => if g.miss < w' then g else { g with miss := w' - 1 }
  | .live => if g.miss < w' then g else { g with miss := w' - 1 }
  | .lapsing =>
    if g.miss < w' then g
    else if w' - 1 = 0 then { g with miss := 0, state := .live } else { g with miss := w' - 1 }

/-- R70, R83: a guard record after its effective entries changed, under a YIELD level. -/
def GuardRec.entriesChanged (g : GuardRec) (old new : Entries) (yieldLevel : Bool) : GuardRec :=
  let g1 := if old.watchFrames = new.watchFrames then g else g.rebounded new.watchFrames
  let g2 := if g1.state = .fallback ∧ old.mode = .mute ∧ new.mode = .fade then { g1 with fade := 0 } else g1
  if yieldLevel ∧ old.yieldFlag ≠ new.yieldFlag then { g2 with yielding := new.yieldFlag } else g2

/-- R70, R83: ZC takes a change of a zone's effective entries from those of an older store to the present ones. -/
def zcEntryChange (old : SafetyStore) (z : Fin 48) (s : State) : State :=
  let g := s.guard z
  let g' := g.entriesChanged (old.effective z) (s.store.effective z) s.yieldLevel
  let s' := s.setGuard z g'
  if g'.state = g.state ∧ g'.yielding = g.yielding then s' else s'.statusChange (zoneOffset z)

/-- R174: SS tells ZC of one zone's change, if the zone is in use. -/
def zcEntryChangeOf (old : SafetyStore) (z : Fin 48) (s : State) : State :=
  if s.zoneInUse z.val then zcEntryChange old z s else s

/-- R175: SS tells ZC of every zone's change; the zones are taken in rising order (assumption log 30). -/
def zcAllEntriesChange (old : SafetyStore) (s : State) : State :=
  match s.loader.live with
  | none => s
  | some p => forEach p.zonesInUse (zcEntryChange old) s

/-! ### Plans coming (4.2) -/

/-- R65: a guard record when its zone comes into use. -/
def GuardRec.installed (t : SafetyStore) (yieldLevel : Bool) (z : Fin 48) : GuardRec :=
  { GuardRec.start with yielding := yieldLevel && (t.effective z).yieldFlag }

/-- R65: the guard records at an installation from COLD. -/
def installedGuards (p : Plan) (t : SafetyStore) (yieldLevel : Bool) : Vector GuardRec 48 :=
  Vector.ofFn fun z => if z.val < p.zoneCount then GuardRec.installed t yieldLevel z else GuardRec.start

end Sys2Proof.Machine
end

