-- ==== Sys2Proof/Machine/Store.lean ====
section
/-!
DEFINITION. The safety store (chapter 10): start-up, permits, programming requests and completions.
-/
namespace Sys2Proof.Machine

/-- The reasons of STORE_REFUSED (11.4). -/
inductive RefusalReason where
  | permitBusy | permitRange | noPermit | wrongWord | writeBusy
  deriving DecidableEq, Repr

/-- Refusal reason codes (11.4). -/
def RefusalReason.code : RefusalReason → Nat
  | .permitBusy => 1
  | .permitRange => 2
  | .noPermit => 3
  | .wrongWord => 4
  | .writeBusy => 5

/-- R176: SS requests STORE_REFUSED. -/
def ssRefuse (why : RefusalReason) (a b : Word) (s : State) : State := s.request .storeRefused why.code a b

/-! ### Start-up (R167, R168) -/

/-- R168: SS issues the image write at the image cursor, unless it has reached 193. -/
def ssIssueImage (s : State) : State :=
  if h : s.store.cursor < 193 then
    s.issue .ss [.imageWrite ⟨s.store.cursor, h⟩ (s.store.words[s.store.cursor])]
  else s

/-- R167, R168: the start-up check ends; SS makes a status change for word 20 and begins its image writes. -/
def ssStartUpCheck (s : State) : State :=
  if s.store.checkPending then
    ssIssueImage
      ((s.setStore { s.store with cond := s.store.checkResult, checkPending := false }).statusChange 20)
  else s

/-- R168: the write of word i completes; the cursor advances and SS issues the next. -/
def ssImageWritten (i : Fin 193) (s : State) : State :=
  ssIssueImage (s.setStore { s.store with cursor := i.val + 1 })

/-! ### Permits (R170) -/

/-- R170: a permit request of value n. -/
def ssPermitRequest (n : Word) (s : State) : State :=
  match s.store.programming with
  | some (i, _) => ssRefuse .permitBusy n (word i.val) s
  | none =>
    if h : n.toNat < 193 then
      if s.store.permit = some ⟨n.toNat, h⟩ then s
      else (s.setStore { s.store with permit := some ⟨n.toNat, h⟩ }).statusChange 20
    else
      let s' := ssRefuse .permitRange n (word (permitCode s.store.permit)) (s.setStore { s.store with permit := none })
      if s.store.permit.isSome then s'.statusChange 20 else s'

/-! ### Programming requests (R171, R172) -/

/-- R171: a CORE write of v to image word i, by the first line of the table that applies. -/
def ssProgramRequest (i : Fin 193) (v : Word) (w : UpWord) (s : State) : State × Treatment :=
  match s.store.programming with
  | some (j, _) => (ssRefuse .writeBusy (word i.val) (word j.val) s, droppedTreatment)
  | none =>
    match s.store.permit with
    | none => (ssRefuse .noPermit (word i.val) v s, droppedTreatment)
    | some n =>
      if n = i then
        ((s.setStore { s.store with permit := none, programming := some (i, v) }).statusChange 20, plainTreatment w)
      else
        ((ssRefuse .wrongWord (word i.val) (word n.val) (s.setStore { s.store with permit := none })).statusChange 20,
          droppedTreatment)

/-- R171, R172: SS's treatment of a write to the store image. -/
def ssImageWord (i : Fin 193) (v : Word) (w : UpWord) (s : State) : State × Treatment :=
  match w.master with
  | .core => ssProgramRequest i v w s
  | .inDma => (s.foreignWrite 255 w, droppedTreatment)
  | .outDma => (s.foreignWrite 255 w, droppedTreatment)
  | .aux => (s.foreignWrite 255 w, droppedTreatment)

/-! ### Programming completions (R174, R175) -/

/-- R174, R175: the store with the word of the programming record programmed. -/
def SafetyStore.programmed (t : SafetyStore) (i : Fin 193) (v : Word) : SafetyStore :=
  { t with words := t.words.set i.val v, programming := none }

/-- R174: the condition after an entry word is programmed. -/
def StoreCond.unsealed' : StoreCond → StoreCond
  | .valid => .unsealed
  | .unsealed => .unsealed
  | .invalid => .invalid

/-- The zone whose entry a store word is (10.1). -/
def entryZone (i : Fin 193) : Fin 48 := Fin.ofNat 48 (i.val / 4)

/-- R174: programming of entry word i completes with v. -/
def ssEntryProgrammed (i : Fin 193) (v : Word) (s : State) : State :=
  let old := s.store
  let t := old.programmed i v
  let s1 := (s.setStore { t with cond := old.cond.unsealed' }).statusChange 20
  let s2 := if old.cond = .invalid then s1 else zcEntryChangeOf old (entryZone i) s1
  s2.request .storeWritten i.val v old.words[i.val]

/-- Whether ZC works from the stored entries under a condition (R169). -/
def StoreCond.trusted : StoreCond → Bool
  | .valid => true
  | .unsealed => true
  | .invalid => false

/-- R175: programming of the checksum word completes with v; the store is checked afresh. -/
def ssChecksumProgrammed (i : Fin 193) (v : Word) (s : State) : State :=
  let old := s.store
  let t := old.programmed i v
  let new := { t with cond := t.checkResult }
  let s1 := (s.setStore new).statusChange 20
  let s2 := if old.cond.trusted = new.cond.trusted then s1 else zcAllEntriesChange old s1
  (s2.request .storeWritten i.val v old.words[i.val]).request .storeCheck (storeCondCode new.cond) new.entrySum
    new.checksum

/-- R174: the end of the programming of an entry word, if one is under way. -/
def ssEntryCompletion (s : State) : State :=
  match s.store.programming with
  | none => s
  | some (i, v) => if i.val < 192 then ssEntryProgrammed i v s else s

/-- R175: the end of the programming of the checksum word, if it is under way. -/
def ssChecksumCompletion (s : State) : State :=
  match s.store.programming with
  | none => s
  | some (i, v) => if i.val < 192 then s else ssChecksumProgrammed i v s

end Sys2Proof.Machine
end

