-- ==== Sys2Proof/Machine/Watch.lean ====
section
/-!
DEFINITION. The address watch (chapter 8): matching, hits, fences, the WATCH operations, DISARM.
-/
namespace Sys2Proof.Machine

/-! ### Matching (8.2) -/

/-- Whether kinds allow a direction (R145). -/
def kindsAllow : Kinds → Bool → Bool
  | .read, w => !w
  | .write, w => w
  | .either, _ => true

/-- Whether an address lies in a window (8.1). -/
def inWindow (base : Addr) (length : Nat) (a : Nat) : Bool := base.toNat ≤ a && a < base.toNat + length

/-- R145: whether a unit that is ON matches a word. -/
def WatchUnit.matches (u : WatchUnit) (w : UpWord) : Bool :=
  u.on && inWindow u.base u.length w.addr.toNat && inMasterSet u.masters w.master && kindsAllow u.kinds (isWrite w.dir)

/-- The units that match a word, in unit order (R148). -/
def matchingUnits (s : State) (w : UpWord) : List (Fin 4) := (List.finRange 4).filter fun u => (s.unit u).matches w

/-- R147, R148: whether a word is a write that a matching FENCE unit drops. -/
def fenced (s : State) (w : UpWord) : Bool :=
  isWrite w.dir && (matchingUnits s w).any fun u => (s.unit u).action = .fence

/-! ### Hits (R146) -/

/-- The first-hit record a word fills; a read's data comes when it completes (R146). -/
def firstHitOf (w : UpWord) : FirstHit where
  addr := w.addr
  master := w.master
  isWrite := isWrite w.dir
  data := writeData w.dir

/-- R146: one unit records a match. -/
def awHit (w : UpWord) (u : Fin 4) (s : State) : State :=
  let r := s.unit u
  match r.firstHit with
  | some _ => (s.setUnit u { r with hits := countUp r.hits }).statusChanges (unitOffsets u)
  | none =>
    ((s.setUnit u { r with hits := countUp r.hits, firstHit := some (firstHitOf w) }).statusChanges
      (unitOffsets u)).request .watchHit u.val (addrWord w.addr)
        (word (masterCode w.master + 256 * dirCode (isWrite w.dir)))

/-- R145, R148: AW looks at a word; each matching unit records it, in unit order. -/
def awLook (w : UpWord) (s : State) : State := forEach (matchingUnits s w) (awHit w) s

/-- R146, R152: the units that take the completion of a word: those that match a read; a write's data is taken with the
match. -/
def watchersOf (s : State) (w : UpWord) : List (Fin 4) := if isWrite w.dir then [] else matchingUnits s w

/-- R146: a first-hit record that awaits its data takes the answer of the read that completes; one that has its data
keeps it. -/
def WatchUnit.withData (u : WatchUnit) (answer : Option Word) : WatchUnit :=
  { u with firstHit := u.firstHit.map fun h => { h with data := h.data.or answer } }

/-- R146, R152: a read that a unit matched completes: the record takes its data, and the unit's words change. -/
def awData (answer : Option Word) (u : Fin 4) (s : State) : State :=
  (s.setUnit u ((s.unit u).withData answer)).statusChanges (unitOffsets u)

/-! ### WATCH (8.4) -/

/-- R149: whether the operands of WATCH are in range, at a plan-area base. -/
def watchOperandsOk (base : Nat) (o : Vector Word 4) : Bool :=
  decide (watchUnitField o[0] ≤ 3) &&
  match watchOpField o[0] with
  | none => false
  | some .off => true
  | some .resetHits => true
  | some .set =>
    let b := o[1].toNat
    let len := o[2].toNat
    let masters := watchMastersField o[3]
    decide (b ≤ 67108863 ∧ 1 ≤ len ∧ len ≤ 65536 ∧ b + len - 1 ≤ 67108863) && masters != 0 &&
    match watchKindsField o[3] with
    | none => false
    | some kinds =>
      !(watchActionField o[3] = .fence && inMasterSet masters .core && kindsAllow kinds true &&
        decide (b ≤ base ∧ base < b + len))

/-- R150: a unit after SET with these operands. -/
def unitSet (o : Vector Word 4) : WatchUnit where
  on := true
  base := BitVec.ofNat 26 o[1].toNat
  length := o[2].toNat
  kinds := (watchKindsField o[3]).getD .either
  masters := watchMastersField o[3]
  scope := watchScopeField o[3]
  action := watchActionField o[3]
  hits := 0
  firstHit := none

/-- R150, R151: a unit turned OFF, if it is ON. -/
def awTurnOff (u : Fin 4) (s : State) : State :=
  let r := s.unit u
  if r.on then (s.setUnit u { r with on := false }).statusChanges (unitOffsets u) else s

/-- R150: SET. -/
def awSet (o : Vector Word 4) (u : Fin 4) (s : State) : State :=
  let r := s.unit u
  if r = unitSet o then s else (s.setUnit u (unitSet o)).statusChanges (unitOffsets u)

/-- R150: RESET_HITS. -/
def awResetHits (u : Fin 4) (s : State) : State :=
  let r := s.unit u
  let r' := { r with hits := 0, firstHit := none }
  if r' = r then s else (s.setUnit u r').statusChanges (unitOffsets u)

/-- R150: WATCH with its operands. -/
def awCommand (o : Vector Word 4) (s : State) : State :=
  let u := Fin.ofNat 4 (watchUnitField o[0])
  match watchOpField o[0] with
  | none => s
  | some .set => awSet o u s
  | some .off => awTurnOff u s
  | some .resetHits => awResetHits u s

/-- R151: DISARM turns OFF every unit of SERVICE scope that is ON, in rising order (assumption log 30). -/
def awDisarm (s : State) : State :=
  forEach ((List.finRange 4).filter fun u => (s.unit u).scope = .service) awTurnOff s

end Sys2Proof.Machine
end

