-- ==== Sys2Proof/Machine/PlanChecks.lean ====
section
/-!
DEFINITION. The checks PL makes on a plan (6.1, R113): plan sum, examined words, regions, layout.
-/
namespace Sys2Proof.Machine

/-- The first of these words, in increasing offset order, whose check fails (R113). -/
def firstFailure (checks : List (Nat × Bool)) : Option Nat := (checks.find? fun c => !c.2).map (·.1)

/-- R104: the header words 1025 to 1030. -/
def headerChecks (p : Plan) : List (Nat × Bool) :=
  [ (1025, [16, 32, 64, 128, 256].contains p.frameLen)
  , (1026, decide (1 ≤ p.lineCount ∧ p.lineCount ≤ 24))
  , (1027, decide (1 ≤ p.areaCount ∧ p.areaCount ≤ 8))
  , (1028, decide (1 ≤ p.zoneCount ∧ p.zoneCount ≤ 48))
  , (1029, decide (p.tapBase + p.zoneCount * p.frameLen ≤ 67108864))
  , (1030, decide (p.zoneBase + p.zoneCount * (2 * p.frameLen) ≤ 67108864)) ]

/-- The allowed line lengths: the powers of two from 1,024 to 65,536 (R105). -/
def lineLengths : List Nat := [1024, 2048, 4096, 8192, 16384, 32768, 65536]

/-- R105: the words of line record i. -/
def lineChecks (p : Plan) (i : Nat) : List (Nat × Bool) :=
  [ (lineOff i 0, decide (p.lineBase i ≤ 67108863))
  , (lineOff i 1, lineLengths.contains (p.lineLen i) && decide (p.lineBase i % p.lineLen i = 0))
  , (lineOff i 2, decide (p.lineWriter i ≤ 3))
  , (lineOff i 3, decide (p.lineRole i = 1 ∨ p.lineRole i = 2))
  , (lineOff i 4, decide (p.jumpThreshold i ≤ 8388607))
  , (lineOff i 5, decide (1 ≤ p.recoverFrames i ∧ p.recoverFrames i ≤ 255)) ]

/-- R106: the examined candidate-line word j of area a names a CANDIDATE line in use, and differs from those before
it. -/
def candidateCheck (p : Plan) (a j : Nat) : Nat × Bool :=
  (areaOff a (1 + j),
    decide (p.candLine a j < p.lineCount) && decide (p.lineRole (p.candLine a j) = 1) &&
      (List.range j).all fun k => p.candLine a k != p.candLine a j)

/-- R106: the word at +13. -/
def shiftAndGlideOk (p : Plan) (a : Nat) : Bool :=
  decide (1 ≤ p.decayShift a ∧ p.decayShift a ≤ 8 ∧ 1 ≤ p.glideFrames a ∧ p.glideFrames a ≤ 64 ∧
    bits (p.word (areaOff a 13)) 16 16 = 0)

/-- R106: the examined words of area record a after its candidate count. -/
def areaFieldChecks (p : Plan) (a : Nat) : List (Nat × Bool) :=
  (List.range (p.candCount a)).map (candidateCheck p a) ++
  [ (areaOff a 9, decide (p.threshold a ≤ 8388607))
  , (areaOff a 10, decide (p.margin a ≤ 8388607))
  , (areaOff a 11, decide (p.dwellFrames a ≤ 255))
  , (areaOff a 12, decide (p.releaseFrames a ≤ 255))
  , (areaOff a 13, shiftAndGlideOk p a) ]

/-- R106: area record a, the candidate count first. -/
def areaFailure (p : Plan) (a : Nat) : Option Nat :=
  if p.candCount a ≤ 8 then firstFailure (areaFieldChecks p a) else some (areaOff a 0)

/-- R107: the bound on the delays of zone z, L − 2F. -/
def Plan.delayBound (p : Plan) (z : Nat) : Nat := p.lineLen (p.programLine z) - 2 * p.frameLen

/-- R107: the examined words of zone record z after its programme line and area. -/
def zoneFieldChecks (p : Plan) (z : Nat) : List (Nat × Bool) :=
  [ (zoneOff z 2, decide (p.trim z ≤ 4095))
  , (zoneOff z 3, decide (p.restDelay z ≤ p.delayBound z)) ] ++
  (List.range (p.candCount (p.zoneArea z))).map fun i => (zoneOff z (4 + i), decide (p.rowEntry z i ≤ p.delayBound z))

/-- R107: zone record z, the programme line and the area first. -/
def zoneFailure (p : Plan) (z : Nat) : Option Nat :=
  if ¬ (p.programLine z < p.lineCount ∧ p.lineRole (p.programLine z) = 2) then some (zoneOff z 0)
  else if ¬ p.zoneArea z < p.areaCount then some (zoneOff z 1)
  else firstFailure (zoneFieldChecks p z)

/-- The first failure over the records of a table, in order. -/
def firstOf (f : Nat → Option Nat) (n : Nat) : Option Nat := (List.range n).findSome? f

/-- R103 to R107: the lowest offset of an examined word that fails its field check. Later tables are examined only
when the earlier ones pass (R104: "the checks of the tables are never made against a count or an F that is out of
range"). -/
def fieldFailure (p : Plan) : Option Nat :=
  match firstFailure (headerChecks p) with
  | some o => some o
  | none =>
    match firstOf (fun i => firstFailure (lineChecks p i)) p.lineCount with
    | some o => some o
    | none =>
      match firstOf (areaFailure p) p.areaCount with
      | some o => some o
      | none => firstOf (zoneFailure p) p.zoneCount

/-- A region under load: the offset of its placing word, its first address and its length (R108). -/
structure PlacedRegion where
  placedBy : Nat
  base : Nat
  length : Nat
  deriving DecidableEq, Repr

/-- R108: two regions overlap when an address lies in both. -/
def PlacedRegion.overlaps (r q : PlacedRegion) : Bool := r.base < q.base + q.length && q.base < r.base + r.length

/-- R108: the regions of a plan in the order of their placing words. -/
def Plan.regions (p : Plan) : List PlacedRegion :=
  [⟨1029, p.tapBase, p.zoneCount * p.frameLen⟩, ⟨1030, p.zoneBase, p.zoneCount * (2 * p.frameLen)⟩] ++
  (List.range p.lineCount).map fun i => ⟨lineOff i 0, p.lineBase i, p.lineLen i⟩

/-- R108: the first region found to overlap one placed before it. -/
def firstOverlap (placed : List PlacedRegion) : List PlacedRegion → Option Nat
  | [] => none
  | r :: rest => if placed.any r.overlaps then some r.placedBy else firstOverlap (placed ++ [r]) rest

/-- R108: the overlap check, the plan area placed first. -/
def regionFailure (straps : BitVec 6) (p : Plan) : Option Nat := firstOverlap [⟨0, planBase straps, 4096⟩] p.regions

/-- R109: the offsets of the layout words of a plan, increasing. -/
def Plan.layoutOffsets (p : Plan) : List Nat :=
  List.range' 1025 6 ++
  (List.range p.lineCount).flatMap (fun i => [lineOff i 0, lineOff i 1, lineOff i 2, lineOff i 3]) ++
  (List.range p.areaCount).map (fun a => areaOff a 0) ++
  (List.range p.zoneCount).flatMap (fun z => [zoneOff z 0, zoneOff z 1])

/-- R109: the first layout word that differs from the live plan's. -/
def layoutFailure (live p : Plan) : Option Nat := p.layoutOffsets.find? fun o => p.word o != live.word o

/-- What PL's checks find (R113). -/
inductive CheckResult where
  | torn (offset cursor : Nat)
  | checksum
  | invalid (offset : Nat)
  | layout (offset : Nat)
  | pass
  deriving DecidableEq, Repr

/-- R113, checks 3 to 5: on the words of a plan. -/
def planResult (straps : BitVec 6) (live : Option Plan) (p : Plan) : CheckResult :=
  match fieldFailure p with
  | some o => .invalid o
  | none =>
    match regionFailure straps p with
    | some o => .invalid o
    | none =>
      match live.bind fun q => layoutFailure q p with
      | some o => .layout o
      | none => .pass

/-- R113: the five checks in order, the first that fails deciding. -/
def checkLoad (straps : BitVec 6) (l : Loader) : CheckResult :=
  match l.torn with
  | some (o, c) => .torn o c
  | none => if l.sum = Plan.planSum l.loadWords then planResult straps l.live l.loadWords else .checksum

end Sys2Proof.Machine
end

