-- ==== Sys2Proof/Machine/PlanLoader.lean ====
section
/-!
DEFINITION. The plan loader (chapter 6): LOAD, reading, the end of the checks, installation, the swap, DROP.
-/
namespace Sys2Proof.Machine

/-! ### Reading (R111, R112) -/

/-- R111: PL issues the read of the word at the cursor. -/
def plIssueRead (s : State) : State :=
  (s.setLoader { s.loader with readInFlight := true }).issue .pl [.planRead s.loader.cursor]

/-- R111: LOAD taken with PL IDLE; no read is issued while a stale one is out. -/
def plLoad (s : State) : State :=
  let s' := s.setLoader { s.loader with state := .reading, cursor := 1024, torn := none, sum := 0, loadWords := [] }
  (if s.loader.staleRead then s' else plIssueRead s').statusChange 17

/-- R111: PL takes a word it read: stores it, sums it from offset 1025 on, and advances the cursor. -/
def Loader.received (l : Loader) (v : Word) : Loader :=
  { l with
    loadWords := l.loadWords ++ [v]
    sum := if 1025 ≤ l.cursor then l.sum + v else l.sum
    cursor := l.cursor + 1
    readInFlight := false }

/-- R111, R113: a word received while READING; the next read, or CHECKING. -/
def plReceive (v : Word) (s : State) : State :=
  let s' := s.setLoader (s.loader.received v)
  if s.loader.cursor + 1 ≤ 1862 then plIssueRead s'
  else (s'.setLoader { s'.loader with state := .checking }).statusChange 17

/-- R111, R119: an own read of PL completes with a word: a stale word is discarded, and then a waiting load's first
read is issued. -/
def plReadDone (v : Word) (s : State) : State :=
  if s.loader.staleRead then
    let s' := s.setLoader { s.loader with staleRead := false }
    if s.loader.state = .reading then plIssueRead s' else s'
  else if s.loader.state = .reading ∧ s.loader.readInFlight then plReceive v s
  else s

/-- R112: a CORE write to a plan word tears a load being read; the first such write is recorded. -/
def plPlanWrite (off : Nat) (s : State) : State :=
  if s.loader.state = .reading ∧ s.loader.torn = none then
    s.setLoader { s.loader with torn := some (off, s.loader.cursor) }
  else s

/-! ### The end of the checks (R113 to R116) -/

/-- R113, R114: a load refused with an outcome; the torn record goes with the load (assumption log 19). -/
def plReject (why : LoadOutcome) (a b : Word) (s : State) : State :=
  ((s.setLoader { s.loader with state := .idle, loadWords := [], torn := none, outcome := why }).request .planRejected
    (loadOutcomeCode why) a b).statusChange 17

/-- R115: an installation from COLD: the live plan, the device READY, every block's records in use. -/
def plInstalled (p : Plan) (s : State) : State :=
  { s with
    loader := { s.loader with state := .idle, loadWords := [], live := some p, outcome := .loaded }
    command := { s.command with device := .ready }
    lines := Vector.replicate 24 LineRec.start
    areas := Vector.replicate 8 AreaRec.fresh
    taps := installedTaps p
    guards := installedGuards p s.store s.yieldLevel }

/-- The status words of every record in use under a plan (R18, R22, R41, R65). -/
def recordOffsets (p : Plan) : List Nat :=
  p.areasInUse.map areaOffset ++ p.linesInUse.map lineOffset ++ p.zonesInUse.map zoneOffset

/-- R115: PL installs a plan that passed from COLD. The order of its status changes is the model's choice (assumption
log 31). -/
def plInstall (p : Plan) (s : State) : State :=
  (((plInstalled p s).request .planLoaded 0 p.planSum 1).statusChanges [16, 17]).statusChanges (recordOffsets p)

/-- R116: PL holds a plan that passed as the standby plan. That the load words are emptied then, as R115 has it for an
installation, is the model's choice (assumption log 32, DESIGN CHOICE). -/
def plHold (p : Plan) (s : State) : State :=
  ((s.setLoader { s.loader with state := .waitingSwap, loadWords := [], standby := some p, outcome := .loaded }).request
    .planLoaded 0 p.planSum 0).statusChange 17

/-- R115, R116: every check passed. -/
def plPass (s : State) : State :=
  match s.loader.live with
  | none => plInstall s.loader.loadWords s
  | some _ => plHold s.loader.loadWords s

/-- R113: the end of PL's checks, if PL is CHECKING. -/
def plEndOfChecks (s : State) : State :=
  if s.loader.state = .checking then
    let words : Plan := s.loader.loadWords
    match checkLoad s.path.straps s.loader with
    | .torn o c => plReject .torn (word o) (word c) s
    | .checksum => plReject .checksum s.loader.sum words.planSum s
    | .invalid o => plReject .invalid (word o) (words.word o) s
    | .layout o => plReject .layout (word o) ((s.loader.live.map fun q => q.word o).getD 0) s
    | .pass => plPass s
  else s

/-! ### The swap (R117, R118) -/

/-- R117: the standby plan replaces the live one. -/
def plSwapPlans (new : Plan) (s : State) : State :=
  s.setLoader { s.loader with state := .idle, live := some new, standby := none, outcome := .swapped }

/-- R117, R118: the swap at a mark, after every block's work under the old plan. -/
def plSwap (old new : Plan) (s : State) : State :=
  let s1 := teSwap new (seSwap old new (plSwapPlans new s))
  ((forEach new.zonesInUse (swapNotice new) s1).request .planSwapped 0 new.planSum
    (word (swapNoticeCount new s1))).statusChange 17

/-- R117: PL's work at a mark under a live plan. -/
def plMark (live : Plan) (s : State) : State :=
  if s.loader.state = .waitingSwap then
    match s.loader.standby with
    | none => s
    | some new => plSwap live new s
  else s

/-! ### DROP (R119) -/

/-- R119: PL abandons a load in progress. -/
def plAbandon (s : State) : State :=
  if s.loader.state = .idle then s
  else
    (s.setLoader { s.loader with
      loadWords := [], standby := none, torn := none, outcome := .abandoned
      readInFlight := false, staleRead := s.loader.staleRead || s.loader.readInFlight }).request .planRejected
        (loadOutcomeCode .abandoned) (word (loadStateCode s.loader.state)) (word s.loader.cursor)

/-- R119, R134: the live plan discarded, PL IDLE, the device COLD, every block's records given up. -/
def droppedState (s : State) : State :=
  { s with
    loader := { s.loader with state := .idle, cursor := 1024, live := none }
    command := { s.command with device := .cold }
    lines := Vector.replicate 24 LineRec.start
    areas := Vector.replicate 8 AreaRec.fresh
    taps := Vector.replicate 48 TapRec.unused
    guards := Vector.replicate 48 GuardRec.start }

/-- The status words of the records a live plan had in use, none without one (R17, R38, R84). -/
def liveRecordOffsets (live : Option Plan) : List Nat :=
  match live with
  | none => []
  | some p => recordOffsets p

/-- R134: DROP. Its status changes, words 16 and 17 together and then the areas', the lines' and the zones', follow the
model's order (assumption log 31). -/
def plDrop (s : State) : State :=
  ((droppedState (plAbandon s)).statusChanges [16, 17]).statusChanges (liveRecordOffsets s.loader.live)

end Sys2Proof.Machine
end

