-- ==== Sys2Proof/Machine/Commands.lean ====
section
/-!
DEFINITION. The command unit (chapter 7): device states, frame marks, operand shadow, posts, each command, the end of
start-up.
-/
namespace Sys2Proof.Machine

/-! ### Device state and start-up (7.1) -/

/-- CU moves the device state (R122). -/
def State.setDevice (s : State) (d : Device) : State := s.setCommand { s.command with device := d }

/-- R164: RW's start-up writes stand ended. -/
def writerStartUpEnded (s : State) : Bool := s.writer.dirty.isEmpty && s.writer.work = .free

/-- R168: SS's start-up writes have ended. -/
def storeStartUpEnded (s : State) : Bool := s.store.cursor = 193

/-- R124, R164: the end of start-up, once both have ended: COLD, word 16, STARTED. -/
def cuEndStartUp (s : State) : State :=
  if s.command.device = .starting ∧ writerStartUpEnded s ∧ storeStartUpEnded s then
    ((s.setDevice .cold).request .started 0 (word (causeCode s.command.cause))
      (word (storeCondCode s.store.cond))).statusChange 16
  else s

/-! ### Frame marks (7.2) -/

/-- R125, R117: the frame work of the blocks under a live plan: TE, LT with SE, ZC, and then PL's swap. TE goes first,
so that every notice of the mark is taken after TE's own work (R51); the rest of the order is the model's choice
(assumption log 18). -/
def frameWork (p : Plan) (stamp : Word) (s : State) : State := plMark p (zcMark p (ltMark p stamp (teMark p s)))

/-- R125, R126: CU takes a frame mark; the stamp is set first. -/
def cuFrameMark (stamp : Word) (s : State) : State :=
  let s' := s.setCommand { s.command with lastStamp := stamp }
  match s.loader.live with
  | none => s'
  | some p => frameWork p stamp s'

/-! ### The command slot (7.3) -/

/-- R127: CU shadows an operand. -/
def cuOperand (n : Fin 4) (v : Word) (s : State) : State :=
  s.setCommand { s.command with shadow := s.command.shadow.set n.val v }

/-- R129, test 2: the device states each command is taken in (7.4). -/
def takenIn : Command → Device → Bool
  | .load, d => d = .cold || d = .ready || d = .service
  | .drop, d => d = .ready
  | .arm, d => d = .ready
  | .disarm, d => d = .service
  | .pin, d => d = .service
  | .free, d => d = .service
  | .mute, d => d = .ready || d = .service
  | .proof, d => d = .ready || d = .service
  | .clear, d => d = .ready || d = .service
  | .watch, d => d = .cold || d = .ready || d = .service
  | .tally, d => d = .ready || d = .service

/-- An on-or-off operand codes off as 0 and on as 1 (11.2). -/
def onOffOk (w : Word) : Bool := w = 0 || w = 1

/-- R129, test 3: whether the operands a command examines are in range under a live plan. -/
def operandsOk (base : Nat) (live : Option Plan) (c : Command) (o : Vector Word 4) : Bool :=
  match c with
  | .load => true
  | .drop => true
  | .arm => true
  | .disarm => true
  | .pin => live.any fun p => o[0].toNat < p.areaCount && o[1].toNat < p.candCount o[0].toNat
  | .free => live.any fun p => o[0].toNat < p.areaCount
  | .mute => (live.any fun p => o[0].toNat < p.zoneCount || o[0] = 255) && onOffOk o[1]
  | .proof => (live.any fun p => o[0].toNat < p.zoneCount) && onOffOk o[1]
  | .clear => live.any fun p => o[0].toNat < p.lineCount || o[0] = 255
  | .watch => watchOperandsOk base o
  | .tally => live.any fun p => o[0].toNat < p.zoneCount

/-- R129, test 4: a command's own condition: LOAD with PL IDLE, PROOF on with YIELD deasserted. -/
def ownConditionOk (s : State) (c : Command) (o : Vector Word 4) : Bool :=
  match c with
  | .load => s.loader.state = .idle
  | .proof => !(o[1] = 1 && s.yieldLevel)
  | .drop => true
  | .arm => true
  | .disarm => true
  | .pin => true
  | .free => true
  | .mute => true
  | .clear => true
  | .watch => true
  | .tally => true

/-- R129: the outcome of a post with these operands, by the first test that fails. -/
def postOutcome (s : State) (code : Nat) (o : Vector Word 4) : Answer :=
  match commandOf code with
  | none => .unknown
  | some c =>
    if takenIn c s.command.device then
      if operandsOk (planBase s.path.straps) s.loader.live c o then
        if ownConditionOk s c o then .done else .badState
      else .badOperand
    else .badState

/-! ### The commands (7.4), executed -/

/-- R77, R139: MUTE of one zone, or of every zone in use for 255, in rising order (assumption log 30). -/
def cuMute (p : Plan) (o : Vector Word 4) (s : State) : State :=
  if o[0] = 255 then forEach p.zonesInUse (zcMute (o[1] = 1)) s else zcMute (o[1] = 1) (Fin.ofNat 48 o[0].toNat) s

/-- R14, R141: CLEAR of one line, or of every line in use for 255, in rising order (assumption log 30). -/
def cuClear (p : Plan) (o : Vector Word 4) (s : State) : State :=
  if o[0] = 255 then forEach p.linesInUse ltClear s else ltClear (Fin.ofNat 24 o[0].toNat) s

/-- R135: ARM; word 16's status change comes before the areas' (assumption log 31). -/
def cuArm (p : Plan) (s : State) : State := seArm p ((s.setDevice .service).statusChange 16)

/-- R136: DISARM; the status changes of word 16, the areas, the zones and the units come in this order (assumption
log 31). -/
def cuDisarm (p : Plan) (s : State) : State := awDisarm (seDisarm p ((s.setDevice .ready).statusChange 16))

/-- R143: TALLY. -/
def cuTally (z : Fin 48) (s : State) : State := zcClearCount z (teClearCount z s)

/-- A command executed with its latched operands, under the live plan where it needs one (7.4). -/
def execute (c : Command) (o : Vector Word 4) (s : State) : State :=
  match c, s.loader.live with
  | .load, _ => plLoad s
  | .watch, _ => awCommand o s
  | .drop, _ => plDrop s
  | .arm, some p => cuArm p s
  | .disarm, some p => cuDisarm p s
  | .pin, some p => sePin p (areaNo o[0].toNat) (Fin.ofNat 8 o[1].toNat) s
  | .free, some _ => seFree (areaNo o[0].toNat) s
  | .mute, some p => cuMute p o s
  | .proof, some _ => zcProof (o[1] = 1) (Fin.ofNat 48 o[0].toNat) s
  | .clear, some p => cuClear p o s
  | .tally, some _ => cuTally (Fin.ofNat 48 o[0].toNat) s
  | .arm, none => s
  | .disarm, none => s
  | .pin, none => s
  | .free, none => s
  | .mute, none => s
  | .proof, none => s
  | .clear, none => s
  | .tally, none => s

/-- R143: the detail writes of a command done: TALLY's two counts as they stand before it. -/
def detailWrites (c : Command) (o : Vector Word 4) (s : State) : List OwnAccess :=
  match c with
  | .tally =>
    let z : Fin 48 := Fin.ofNat 48 o[0].toNat
    [.detailWrite 0 (word (s.tap z).saturations), .detailWrite 1 (word (s.guard z).ceilingCount)]
  | .load => []
  | .drop => []
  | .arm => []
  | .disarm => []
  | .pin => []
  | .free => []
  | .mute => []
  | .proof => []
  | .clear => []
  | .watch => []

/-- R128: the effects of a post's outcome, and the detail writes that go with them. -/
def postEffects (code : Nat) (x : Answer) (o : Vector Word 4) (s : State) : State × List OwnAccess :=
  match x, commandOf code with
  | .done, some c => (execute c o s, detailWrites c o s)
  | .done, none => (s, [])
  | .badState, _ => (s, [])
  | .badOperand, _ => (s, [])
  | .unknown, _ => (s, [])

/-- R128: CU takes a post: latches the shadow, keeps the tag, decides, executes, issues the detail writes and the
answer write, and enters ANSWERING. -/
def cuTakePost (v : Word) (s : State) : State :=
  let s1 := s.setCommand { s.command with
    slot := .answering, latched := s.command.shadow, lastTag := some (postTag v) }
  let x := postOutcome s1 (postCode v) s1.command.latched
  let (s2, details) := postEffects (postCode v) x s1.command.latched s1
  s2.issue .cu (details ++ [.answerWrite (answerWord (postTag v) x)])

/-- R131: CU refuses a post while ANSWERING. -/
def cuRefusePost (v : Word) (s : State) : State :=
  s.request .commandRefused (postTag v).toNat (word (postCode v)) (word ((s.command.lastTag.map (·.toNat)).getD 0))

/-- R128, R131: a CORE write to the post word. -/
def cuPost (v : Word) (s : State) : State :=
  match s.command.slot with
  | .idle => cuTakePost v s
  | .answering => cuRefusePost v s

/-- R130: the answer write completes. -/
def cuAnswerDone (s : State) : State := s.setCommand { s.command with slot := .idle }

end Sys2Proof.Machine
end

