-- ==== Sys2Proof/Machine/MemoryPath.lean ====
section
/-!
DEFINITION. The memory path (chapter 5): upstream words from the port to their owners and back, the events that wait
for the end of a word.
-/
namespace Sys2Proof.Machine

/-! ### The tail (R159) -/

/-- R159: a CORE write of v to the report tail word. -/
def rwTail (v : Word) (s : State) : State :=
  let t : BitVec 6 := BitVec.ofNat 6 v.toNat
  if v.toNat ≤ 63 ∧ (t - s.writer.tail).toNat ≤ s.writer.occupancy then s.setWriter { s.writer with tail := t } else s

/-! ### Words of the plan area (R92 to R94) -/

/-- R92, R93: what a CORE write at a snooped offset has its owner do. -/
def snoop (off : Nat) (v : Word) (s : State) : State :=
  if off = 0 then cuPost v s
  else if 2 ≤ off ∧ off ≤ 5 then cuOperand (Fin.ofNat 4 (off - 2)) v s
  else if off = 8 then cuFrameMark v s
  else if off = 9 then rwTail v s
  else if off = 10 then ssPermitRequest v s
  else if planWordOffset off then plPlanWrite off s
  else s

/-- R92: a write in the plan area, by its offset and master. -/
def planAreaWrite (off : Nat) (v : Word) (w : UpWord) (s : State) : State × Treatment :=
  if protectedOffset off then (s.foreignWrite 255 w, droppedTreatment)
  else if h : 512 ≤ off ∧ off - 512 < 193 then ssImageWord ⟨off - 512, h.2⟩ v w s
  else if w.master = .core then (snoop off v s, plainTreatment w)
  else (s, plainTreatment w)

/-- R92: a word in the plan area; reads are plain. -/
def planAreaWord (off : Nat) (w : UpWord) (s : State) : State × Treatment :=
  match w.dir with
  | .read => (s, plainTreatment w)
  | .write v => planAreaWrite off v w s

/-! ### Taking a word (R87 to R90) -/

/-- R39: TE's treatment of a word in the tap aperture. -/
def teWord (p : Plan) (z : Fin 48) (j : Nat) (w : UpWord) (s : State) : State × Treatment :=
  match w.dir with
  | .read => teRead p z j s
  | .write _ => teWrite z w s

/-- A word of a region of the live plan, handed to its owner. -/
def withPlan (w : UpWord) (s : State) (f : Plan → State × Treatment) : State × Treatment :=
  match s.loader.live with
  | none => (s, plainTreatment w)
  | some p => f p

/-- R87 step 3: the word goes to the owner of its region (R90). -/
def ownerTreatment (w : UpWord) (s : State) : State × Treatment :=
  match regionOf s.path.straps s.loader.live w.addr with
  | .planArea off => planAreaWord off w s
  | .aperture z j => withPlan w s fun p => teWord p z j w s
  | .zoneBuffer z half _ => withPlan w s fun p => zcWord p z half w s
  | .lineMemory l o => withPlan w s fun p => ltWord p l o w s
  | .noRegion => (s, plainTreatment w)

/-- R88, R146, R152: a word completes towards its master with its answer; the units that matched a read take its
completion, in rising order (assumption log 30). -/
def finishWord (w : UpWord) (watchers : List (Fin 4)) (answer : Option Word) (s : State) : State :=
  forEach watchers (awData answer) (s.setPath { s.path with inHand := none, lastDone := some ⟨w, answer⟩ })

/-- R87 step 4, R89: the word's accesses wait for the port, or the word completes at once. -/
def startTreatment (w : UpWord) (watchers : List (Fin 4)) (t : Treatment) (s : State) : State :=
  match t with
  | .complete answer => finishWord w watchers answer s
  | .access accesses form => s.setPath { s.path with inHand := some ⟨w, form, accesses, [], watchers⟩ }

/-- R87: MP takes a word. During STARTING every word is plain and no block sees it (R90, R145). -/
def takeWord (w : UpWord) (s : State) : State :=
  if s.command.device = .starting then startTreatment w [] (plainTreatment w) s
  else
    let watchers := watchersOf s w
    let looked := awLook w s
    if fenced s w then finishWord w [] none looked
    else
      let (s', t) := ownerTreatment w looked
      startTreatment w watchers t s'

/-- R86, R88, R101: a word presented at the upstream port: not taken while the part is in reset, held back while a
word is in hand, taken otherwise. -/
def presentWord (w : UpWord) (s : State) : State :=
  if s.path.resetHeld then s
  else if s.path.inHand.isSome then s.setPath { s.path with waiting := s.path.waiting ++ [w] }
  else takeWord w s

/-! ### Slow events and the end of a word (R88) -/

/-- R158: the head write of an index completes. -/
def rwHeadDone (i : BitVec 6) (s : State) : State :=
  (s.setWriter { s.writer with head := i, queue := s.writer.queue.tail, work := .free }).statusFirst

/-- R162 to R164: a status write completes; RW chooses its next work, and start-up may end. -/
def rwStatusDone (s : State) : State := cuEndStartUp ((s.setWriter { s.writer with work := .free }).chooseWork)

/-- What the client of an own write does when it takes its end (R98). -/
def ownWriteDone (x : OwnAccess) (s : State) : State :=
  match x with
  | .planRead _ => s
  | .detailWrite _ _ => s
  | .answerWrite _ => cuAnswerDone s
  | .entryWrite _ _ _ => s
  | .headWrite i => rwHeadDone i s
  | .statusWrite _ _ => rwStatusDone s
  | .imageWrite i _ => cuEndStartUp (ssImageWritten i s)

/-- What each event of R88 that is not an upstream word does when it is taken. -/
def takeEvent (e : SlowEvent) (s : State) : State :=
  match e with
  | .startUpCheck => ssStartUpCheck s
  | .endOfChecks => plEndOfChecks s
  | .entryProgrammed => ssEntryCompletion s
  | .checksumProgrammed => ssChecksumCompletion s
  | .yieldEdge level => zcEdge level s
  | .planWordRead v => plReadDone v s
  | .ownWritten x => ownWriteDone x s

/-- R88: between words an event is taken; in the middle of a word it waits for the word's end. -/
def deliver (e : SlowEvent) (s : State) : State :=
  if s.path.inHand.isSome then s.setPath { s.path with held := s.path.held ++ [e] } else takeEvent e s

/-- R88: an event of a block's own or of the YIELD pin arrives; while the part is in reset nothing is there to take it
(R101). -/
def arrive (e : SlowEvent) (s : State) : State := if s.path.resetHeld then s else deliver e s

/-- R88: the events that waited for the end of a word are taken in the order they arrived. -/
def takeHeld : List SlowEvent → State → State
  | [], s => s
  | e :: rest, s => takeHeld rest (takeEvent e (s.setPath { s.path with held := rest }))

/-- R86, R88: the words that waited are taken in order, until one is in hand again. -/
def takeWaiting : List UpWord → State → State
  | [], s => s.setPath { s.path with waiting := [] }
  | w :: rest, s =>
    let s' := takeWord w (s.setPath { s.path with waiting := rest })
    if s'.path.inHand.isSome then s' else takeWaiting rest s'

/-- R88: what follows the end of a word in hand. -/
def afterWord (s : State) : State :=
  let s' := takeHeld s.path.held s
  takeWaiting s'.path.waiting s'

/-- R89: the answer an owner forms from the words returned; a write has none. -/
def formAnswer (f : Form) (returned : List Word) : Option Word :=
  match f, returned with
  | .store, _ => none
  | .plain, v :: _ => some v
  | .steady _ trim, v :: _ => some (trimAnswer trim (legalSample v))
  | .blend _ weight trim, a :: b :: _ => some (trimAnswer trim (blend weight (legalSample a) (legalSample b)))
  | .checked, v :: _ => some (ofSample (legalSample v))
  | .faded level, v :: _ => some (ofSample (fadedSample level (legalSample v)))
  | .plain, [] => none
  | .steady _ _, [] => none
  | .blend _ _ _, [] => none
  | .blend _ _ _, [_] => none
  | .checked, [] => none
  | .faded _, [] => none

/-- R56, R57: the zone whose trimmed answer saturated, if one did. -/
def saturatedZone (f : Form) (returned : List Word) : Option (Fin 48) :=
  match f, returned with
  | .steady z trim, v :: _ => if trimSaturates trim (legalSample v) then some z else none
  | .blend z weight trim, a :: b :: _ =>
    if trimSaturates trim (blend weight (legalSample a) (legalSample b)) then some z else none
  | .steady _ _, [] => none
  | .blend _ _ _, [] => none
  | .blend _ _ _, [_] => none
  | .store, _ => none
  | .plain, _ => none
  | .checked, _ => none
  | .faded _, _ => none

/-- R57: the saturation, if there is one, is counted. -/
def countSaturation (z : Option (Fin 48)) (s : State) : State :=
  match z with
  | none => s
  | some z => teSaturate z s

/-- R88: the last access of the word in hand has completed: the answer is formed and the word completes. -/
def completeInHand (h : InHand) (returned : List Word) (s : State) : State :=
  afterWord (finishWord h.word h.watchers (formAnswer h.form returned)
    (countSaturation (saturatedZone h.form returned) s))

end Sys2Proof.Machine
end

