-- ==== Sys2Proof/Machine/MemoryPort.lean ====
section
/-!
DEFINITION. The memory port (5.3, 5.4): the arbiter, the own-access engine, and the commands of the port: PORT_GRANT and
the completions of accesses.
-/
namespace Sys2Proof.Machine

/-! ### The arbiter (R95) and the engine (R97) -/

/-- R95: the upstream claimant waits: the word in hand has an access not yet granted. -/
def upstreamWaits (p : MemPath) : Bool := p.inHand.any fun h => !h.accesses.isEmpty

/-- R97: the engine waits whenever a client has an access issued and not yet made. -/
def ownWaits (p : MemPath) : Bool :=
  !(p.ownPL.isEmpty && p.ownCU.isEmpty && p.ownRW.isEmpty && p.ownSS.isEmpty)

/-- The client after another in the rotation PL, CU, RW, SS (R97). -/
def Client.next : Client → Client
  | .pl => .cu
  | .cu => .rw
  | .rw => .ss
  | .ss => .pl

/-- The rotation from a client on (R97). -/
def Client.rotation (c : Client) : List Client := [c, c.next, c.next.next, c.next.next.next]

/-- The claimants of the port. -/
inductive Claimant where
  | upstream | own
  deriving DecidableEq, Repr

/-- R95: whom the arbiter grants, and its count after the grant. -/
def arbitrate (upstream own : Bool) (count : Nat) : Option (Claimant × Nat) :=
  match upstream, own with
  | false, false => none
  | true, false => some (.upstream, 0)
  | false, true => some (.own, 0)
  | true, true => if count < 8 then some (.upstream, count + 1) else some (.own, 0)

/-- The access of the word in hand granted (R88, R96). -/
def grantUpstream (s : State) : State :=
  match s.path.inHand with
  | none => s
  | some h =>
    match h.accesses with
    | [] => s
    | a :: rest => s.setPath { s.path with port := some (.upstream a), inHand := some { h with accesses := rest } }

/-- The address of an own access (R97: a word of the plan area). -/
def ownAddr (s : State) (x : OwnAccess) : Addr := planAddr s.path.straps x.offset

/-- The memory effect of an own access: its write, if it is one. -/
def ownMemory (x : OwnAccess) (s : State) : State :=
  match x.data with
  | none => s
  | some v => s.memWrite (ownAddr s x) v

/-- Whether the end of an own access is a command of the table, which its client takes as an event. The others, the
writes of detail words and ring entries, end within the step that grants them (assumption log 7). -/
def hasCompletion : OwnAccess → Bool
  | .planRead _ => true
  | .detailWrite _ _ => false
  | .answerWrite _ => true
  | .entryWrite _ _ _ => false
  | .headWrite _ => true
  | .statusWrite _ _ => true
  | .imageWrite _ _ => true

/-- R97: the client's oldest access is made and the pointer moves past the client. -/
def serve (c : Client) (s : State) : State :=
  match s.path.issued c with
  | [] => s
  | x :: rest =>
    let s' := s.setPath { s.path.setIssued c rest with pointer := c.next }
    if hasCompletion x then s'.setPath { s'.path with port := some (.own x) } else ownMemory x s'

/-- R97: the first client with work, from the pointer on, is served. -/
def grantOwn (s : State) : State :=
  match s.path.pointer.rotation.find? fun c => !(s.path.issued c).isEmpty with
  | none => s
  | some c => serve c s

/-- R95: a grant, if the port is free and a claimant waits. -/
def portGrant (s : State) : State :=
  match s.path.port with
  | some _ => s
  | none =>
    match arbitrate (upstreamWaits s.path) (ownWaits s.path) s.path.count with
    | none => s
    | some (.upstream, n) => grantUpstream (s.setPath { s.path with count := n })
    | some (.own, n) => grantOwn (s.setPath { s.path with count := n })

/-! ### Completions -/

/-- The port becomes free (R95). -/
def freePort (s : State) : State := s.setPath { s.path with port := none }

/-- The memory effect of an upstream access: its write, if it is one. -/
def upstreamMemory (a : Access) (s : State) : State :=
  match a with
  | .read _ => s
  | .write addr v => s.memWrite addr v

/-- The words an upstream access returns (R88). -/
def accessReturns (a : Access) (s : State) : List Word :=
  match a with
  | .read addr => [s.memRead addr]
  | .write _ _ => []

/-- R88: an access of the word in hand completes: the next waits, or the word completes. -/
def upstreamDone (a : Access) (s : State) : State :=
  let s' := upstreamMemory a (freePort s)
  match s'.path.inHand with
  | none => s'
  | some h =>
    let returned := h.returned ++ accessReturns a s
    if h.accesses.isEmpty then completeInHand h returned s'
    else s'.setPath { s'.path with inHand := some { h with returned := returned } }

/-- UPSTREAM_ACCESS_COMPLETE (R88); nothing completes where no upstream access is at the port (assumption log 3). -/
def upstreamComplete (s : State) : State :=
  match s.path.port with
  | some (.upstream a) => upstreamDone a s
  | some (.own _) => s
  | none => s

/-- The rows of the table that end an own access. -/
inductive OwnCompletion where
  | planRead | answerWrite | headWrite | statusWrite | imageWrite
  deriving DecidableEq, Repr

/-- The row that ends an own access. -/
def completionOf : OwnAccess → Option OwnCompletion
  | .planRead _ => some .planRead
  | .detailWrite _ _ => none
  | .answerWrite _ => some .answerWrite
  | .entryWrite _ _ _ => none
  | .headWrite _ => some .headWrite
  | .statusWrite _ _ => some .statusWrite
  | .imageWrite _ _ => some .imageWrite

/-- The event a client takes when an own access ends: a read's carries the word the DRAM returned (R98). -/
def endOf (x : OwnAccess) (s : State) : SlowEvent :=
  match x.data with
  | none => .planWordRead (s.memRead (ownAddr s x))
  | some _ => .ownWritten x

/-- An own access at the port completes by its row: memory, then the port, then its client (R98), which takes the end
between words (R88). Nothing completes where no such access is at the port (assumption log 3). -/
def ownComplete (row : OwnCompletion) (s : State) : State :=
  match s.path.port with
  | some (.own x) => if completionOf x = some row then deliver (endOf x s) (freePort (ownMemory x s)) else s
  | some (.upstream _) => s
  | none => s

/-! ### The commands -/

/-- PORT_GRANT (R95). -/
def execPortGrant (s : State) : Host.Outcome State Fault Refusal := .next (portGrant s)

/-- UPSTREAM_ACCESS_COMPLETE (R88). -/
def execUpstreamAccessComplete (s : State) : Host.Outcome State Fault Refusal := .next (upstreamComplete s)

/-- PLAN_READ_COMPLETE (R111). -/
def execPlanReadComplete (s : State) : Host.Outcome State Fault Refusal := .next (ownComplete .planRead s)

/-- ANSWER_WRITE_COMPLETE (R130). -/
def execAnswerWriteComplete (s : State) : Host.Outcome State Fault Refusal := .next (ownComplete .answerWrite s)

/-- HEAD_WRITE_COMPLETE (R158). -/
def execHeadWriteComplete (s : State) : Host.Outcome State Fault Refusal := .next (ownComplete .headWrite s)

/-- STATUS_WRITE_COMPLETE (R162). -/
def execStatusWriteComplete (s : State) : Host.Outcome State Fault Refusal := .next (ownComplete .statusWrite s)

/-- IMAGE_WRITE_COMPLETE (R168). -/
def execImageWriteComplete (s : State) : Host.Outcome State Fault Refusal := .next (ownComplete .imageWrite s)

end Sys2Proof.Machine
end

