-- ==== Sys2Proof/Machine/UpstreamWords.lean ====
section
/-!
DEFINITION. The commands that are words of the upstream port, posts apart. Each presents its word; what comes of it is
the part's own decode (R87 to R92; assumption log 1).
-/
namespace Sys2Proof.Machine

/-- PLAIN_WORD (R87). -/
def execPlainWord (m : Master) (a : Addr) (d : Dir) (s : State) : Host.Outcome State Fault Refusal :=
  .next (presentWord ⟨m, a, d⟩ s)

/-- FENCED_WRITE (R147). -/
def execFencedWrite (m : Master) (a : Addr) (v : Word) (s : State) : Host.Outcome State Fault Refusal :=
  .next (presentWord ⟨m, a, .write v⟩ s)

/-- WRITER_WRITE (R3). -/
def execWriterWrite (m : Master) (a : Addr) (v : Word) (s : State) : Host.Outcome State Fault Refusal :=
  .next (presentWord ⟨m, a, .write v⟩ s)

/-- LINE_FOREIGN_WRITE (R9). -/
def execLineForeignWrite (m : Master) (a : Addr) (v : Word) (s : State) : Host.Outcome State Fault Refusal :=
  .next (presentWord ⟨m, a, .write v⟩ s)

/-- TAP_READ (R40). -/
def execTapRead (m : Master) (a : Addr) (s : State) : Host.Outcome State Fault Refusal :=
  .next (presentWord ⟨m, a, .read⟩ s)

/-- APERTURE_WRITE (R60). -/
def execApertureWrite (m : Master) (a : Addr) (v : Word) (s : State) : Host.Outcome State Fault Refusal :=
  .next (presentWord ⟨m, a, .write v⟩ s)

/-- ZONE_WRITE (R67). -/
def execZoneWrite (a : Addr) (v : Word) (s : State) : Host.Outcome State Fault Refusal :=
  .next (presentWord ⟨.core, a, .write v⟩ s)

/-- ZONE_FOREIGN_WRITE (R69). -/
def execZoneForeignWrite (m : Master) (a : Addr) (v : Word) (s : State) : Host.Outcome State Fault Refusal :=
  .next (presentWord ⟨m, a, .write v⟩ s)

/-- OUTPUT_READ (R75). -/
def execOutputRead (a : Addr) (s : State) : Host.Outcome State Fault Refusal :=
  .next (presentWord ⟨.outDma, a, .read⟩ s)

/-- A write of a master to a plan-area offset. -/
def planAreaCommand (m : Master) (off : Nat) (v : Word) (s : State) : State :=
  presentWord ⟨m, planAddr s.path.straps off, .write v⟩ s

/-- PROTECTED_WRITE (R94). -/
def execProtectedWrite (m : Master) (off : BitVec 12) (v : Word) (s : State) : Host.Outcome State Fault Refusal :=
  .next (planAreaCommand m off.toNat v s)

/-- OPERAND_WRITE (R127). -/
def execOperandWrite (n : Fin 4) (v : Word) (s : State) : Host.Outcome State Fault Refusal :=
  .next (planAreaCommand .core (2 + n.val) v s)

/-- FRAME_MARK (R125). -/
def execFrameMark (stamp : Word) (s : State) : Host.Outcome State Fault Refusal :=
  .next (planAreaCommand .core 8 stamp s)

/-- LINE_RECOVERY (R11): it comes about at a frame mark (assumption log 2). -/
def execLineRecovery (stamp : Word) (s : State) : Host.Outcome State Fault Refusal :=
  .next (planAreaCommand .core 8 stamp s)

/-- AREA_RELEASE (R30): it comes about in the decision of a frame mark (assumption log 2). -/
def execAreaRelease (stamp : Word) (s : State) : Host.Outcome State Fault Refusal :=
  .next (planAreaCommand .core 8 stamp s)

/-- GLIDE_END (R53): it comes about at a frame mark (assumption log 2). -/
def execGlideEnd (stamp : Word) (s : State) : Host.Outcome State Fault Refusal :=
  .next (planAreaCommand .core 8 stamp s)

/-- ZONE_FALLBACK (R73): it comes about at a frame mark (assumption log 2). -/
def execZoneFallback (stamp : Word) (s : State) : Host.Outcome State Fault Refusal :=
  .next (planAreaCommand .core 8 stamp s)

/-- TAIL_UPDATE (R159). -/
def execTailUpdate (v : Word) (s : State) : Host.Outcome State Fault Refusal :=
  .next (planAreaCommand .core 9 v s)

/-- PERMIT_REQUEST (R170). -/
def execPermitRequest (n : Word) (s : State) : Host.Outcome State Fault Refusal :=
  .next (planAreaCommand .core 10 n s)

/-- PROGRAMMING_REQUEST (R171). -/
def execProgrammingRequest (i : Fin 193) (v : Word) (s : State) : Host.Outcome State Fault Refusal :=
  .next (planAreaCommand .core (512 + i.val) v s)

/-- IMAGE_FOREIGN_WRITE (R172). -/
def execImageForeignWrite (m : Master) (i : Fin 193) (v : Word) (s : State) : Host.Outcome State Fault Refusal :=
  .next (planAreaCommand m (512 + i.val) v s)

/-- PLAN_WORD_WRITE (R112). -/
def execPlanWordWrite (off : BitVec 12) (v : Word) (s : State) : Host.Outcome State Fault Refusal :=
  .next (planAreaCommand .core off.toNat v s)

end Sys2Proof.Machine
end

