-- ==== Sys2Proof/Machine/Posts.lean ====
section
/-!
DEFINITION. The commands that are posts: CORE writes to the post word (R128). Each presents the post word that carries
its code; CU takes it with the operands of the shadow, or refuses it while ANSWERING (R131).
-/
namespace Sys2Proof.Machine

/-- A CORE write of a code, a tag and unused bits to the post word (11.2). -/
def postCommand (code : Nat) (tag : BitVec 8) (unused : BitVec 16) (s : State) : State :=
  planAreaCommand .core 0 (postWord code tag unused) s

/-- LOAD (R133). -/
def execLoad (tag : BitVec 8) (unused : BitVec 16) (s : State) : Host.Outcome State Fault Refusal :=
  .next (postCommand Command.load.code tag unused s)

/-- DROP (R134). -/
def execDrop (tag : BitVec 8) (unused : BitVec 16) (s : State) : Host.Outcome State Fault Refusal :=
  .next (postCommand Command.drop.code tag unused s)

/-- ARM (R135). -/
def execArm (tag : BitVec 8) (unused : BitVec 16) (s : State) : Host.Outcome State Fault Refusal :=
  .next (postCommand Command.arm.code tag unused s)

/-- DISARM (R136). -/
def execDisarm (tag : BitVec 8) (unused : BitVec 16) (s : State) : Host.Outcome State Fault Refusal :=
  .next (postCommand Command.disarm.code tag unused s)

/-- PIN (R137). -/
def execPin (tag : BitVec 8) (unused : BitVec 16) (s : State) : Host.Outcome State Fault Refusal :=
  .next (postCommand Command.pin.code tag unused s)

/-- FREE (R138). -/
def execFree (tag : BitVec 8) (unused : BitVec 16) (s : State) : Host.Outcome State Fault Refusal :=
  .next (postCommand Command.free.code tag unused s)

/-- MUTE (R139). -/
def execMute (tag : BitVec 8) (unused : BitVec 16) (s : State) : Host.Outcome State Fault Refusal :=
  .next (postCommand Command.mute.code tag unused s)

/-- PROOF (R140). -/
def execProof (tag : BitVec 8) (unused : BitVec 16) (s : State) : Host.Outcome State Fault Refusal :=
  .next (postCommand Command.proof.code tag unused s)

/-- CLEAR (R141). -/
def execClear (tag : BitVec 8) (unused : BitVec 16) (s : State) : Host.Outcome State Fault Refusal :=
  .next (postCommand Command.clear.code tag unused s)

/-- WATCH_SET (R150); the operation is the one in shadow word 0 (R142). -/
def execWatchSet (tag : BitVec 8) (unused : BitVec 16) (s : State) : Host.Outcome State Fault Refusal :=
  .next (postCommand Command.watch.code tag unused s)

/-- WATCH_OFF (R150); the operation is the one in shadow word 0 (R142). -/
def execWatchOff (tag : BitVec 8) (unused : BitVec 16) (s : State) : Host.Outcome State Fault Refusal :=
  .next (postCommand Command.watch.code tag unused s)

/-- WATCH_RESET_HITS (R150); the operation is the one in shadow word 0 (R142). -/
def execWatchResetHits (tag : BitVec 8) (unused : BitVec 16) (s : State) : Host.Outcome State Fault Refusal :=
  .next (postCommand Command.watch.code tag unused s)

/-- TALLY (R143). -/
def execTally (tag : BitVec 8) (unused : BitVec 16) (s : State) : Host.Outcome State Fault Refusal :=
  .next (postCommand Command.tally.code tag unused s)

/-- UNKNOWN_COMMAND (R129). -/
def execUnknownCommand (code tag : BitVec 8) (unused : BitVec 16) (s : State) : Host.Outcome State Fault Refusal :=
  .next (postCommand code.toNat tag unused s)

/-- COMMAND_REFUSED (R131). -/
def execCommandRefused (code tag : BitVec 8) (unused : BitVec 16) (s : State) : Host.Outcome State Fault Refusal :=
  .next (postCommand code.toNat tag unused s)

end Sys2Proof.Machine
end

