-- ==== Sys2Proof/Config.lean ====
section
/-!
DEFINITION. What the spec leaves open: the free values. Nothing in Lean can evaluate one.
-/
namespace Sys2Proof

/-- R178: a reset that interrupts the programming of a store word leaves it "holding either its old value or the
new value v, and never a third value", and nothing says which. `true` stands for the new value; the argument is the
number of free values used before (`State.freeUsed`). A free value (assumption log 13). -/
opaque Config.interruptedWordTakesNew : Nat → Bool

end Sys2Proof
end

