-- ==== Sys2Proof/Machine/Resets.lean ====
section
/-!
DEFINITION. Resets (R101, R102, R163, R167, R178) and the events of the part's own and of the YIELD pin.
-/
namespace Sys2Proof.Machine

/-! ### A reset is taken -/

/-- R101: an access already granted at the port completes at the DRAM. -/
def grantedMemory (s : State) : State :=
  match s.path.port with
  | none => s
  | some (.upstream a) => upstreamMemory a s
  | some (.own x) => ownMemory x s

/-- R101: the word in hand is an image write whose memory write has not been granted, so it "reaches neither memory nor
any block" and its programming never began (assumption log 21). -/
def requestNotReached (s : State) : Bool :=
  s.path.inHand.any fun h =>
    isWrite h.word.dir && !h.accesses.isEmpty &&
      (planOffset s.path.straps h.word.addr).any fun off => 512 ≤ off && off ≤ 704

/-- R178: the store words a reset leaves: the word being programmed keeps its old value or takes the new one, a free
value; every other word is kept. -/
def survivingWords (s : State) : Vector Word 193 :=
  match s.store.programming with
  | none => s.store.words
  | some (i, v) =>
    if requestNotReached s then s.store.words
    else if Config.interruptedWordTakesNew s.freeUsed then s.store.words.set i.val v else s.store.words

/-- R101, R102: a reset of a cause is taken in any state; every block takes its reset values, memory and the store words
stay, and the reset lasts until RESET_END. -/
def takeReset (cause : ResetCause) (s : State) : State :=
  { State.reset with
    pending := s.pending
    mem := (grantedMemory s).mem
    path := MemPath.reset s.path.straps
    yieldLevel := s.yieldLevel
    command := CommandUnit.reset cause
    store := SafetyStore.reset (survivingWords s)
    freeUsed := s.freeUsed + 1 }

/-- R91, R79, R101, R123: the reset ends: straps and YIELD are sampled, SS begins its check and RW its start-up writes. -/
def endReset (straps : BitVec 6) (yieldPin : Bool) (s : State) : State :=
  if s.path.resetHeld then
    (({ s with yieldLevel := yieldPin }.setPath { s.path with straps := straps, resetHeld := false }).setStore
      { s.store with checkPending := true }).chooseWork
  else s

/-! ### The commands -/

/-- POWER_ON_RESET (R102). -/
def execPowerOnReset (s : State) : Host.Outcome State Fault Refusal := .next (takeReset .powerOn s)

/-- RESET_PIN_ASSERTED (R102). -/
def execResetPinAsserted (s : State) : Host.Outcome State Fault Refusal := .next (takeReset .resetPin s)

/-- RESET_END (R101). -/
def execResetEnd (straps : BitVec 6) (yieldPin : Bool) (s : State) : Host.Outcome State Fault Refusal :=
  .next (endReset straps yieldPin s)

/-- START_UP_CHECK (R167). -/
def execStartUpCheck (s : State) : Host.Outcome State Fault Refusal := .next (arrive .startUpCheck s)

/-- END_OF_CHECKS (R113). -/
def execEndOfChecks (s : State) : Host.Outcome State Fault Refusal := .next (arrive .endOfChecks s)

/-- ENTRY_PROGRAMMING_COMPLETION (R174). -/
def execEntryProgrammingCompletion (s : State) : Host.Outcome State Fault Refusal := .next (arrive .entryProgrammed s)

/-- CHECKSUM_PROGRAMMING_COMPLETION (R175). -/
def execChecksumProgrammingCompletion (s : State) : Host.Outcome State Fault Refusal :=
  .next (arrive .checksumProgrammed s)

/-- YIELD_ASSERTION (R81). -/
def execYieldAssertion (s : State) : Host.Outcome State Fault Refusal := .next (arrive (.yieldEdge true) s)

/-- YIELD_DEASSERTION (R82). -/
def execYieldDeassertion (s : State) : Host.Outcome State Fault Refusal := .next (arrive (.yieldEdge false) s)

end Sys2Proof.Machine
end

