-- ==== Sys2Proof/Machine/Dispatch.lean ====
section
/-! DEFINITION. One arm per command: the meaning each calls. -/
namespace Sys2Proof.Machine

def exec (i : Instr) (s : State) : Host.Outcome State Fault Refusal :=
  match i with
  | .powerOnReset => Sys2Proof.Machine.execPowerOnReset s
  | .resetPinAsserted => Sys2Proof.Machine.execResetPinAsserted s
  | .resetEnd straps yieldPin => Sys2Proof.Machine.execResetEnd straps yieldPin s
  | .startUpCheck => Sys2Proof.Machine.execStartUpCheck s
  | .imageWriteComplete => Sys2Proof.Machine.execImageWriteComplete s
  | .plainWord m a d => Sys2Proof.Machine.execPlainWord m a d s
  | .fencedWrite m a v => Sys2Proof.Machine.execFencedWrite m a v s
  | .writerWrite m a v => Sys2Proof.Machine.execWriterWrite m a v s
  | .lineForeignWrite m a v => Sys2Proof.Machine.execLineForeignWrite m a v s
  | .tapRead m a => Sys2Proof.Machine.execTapRead m a s
  | .apertureWrite m a v => Sys2Proof.Machine.execApertureWrite m a v s
  | .zoneWrite a v => Sys2Proof.Machine.execZoneWrite a v s
  | .zoneForeignWrite m a v => Sys2Proof.Machine.execZoneForeignWrite m a v s
  | .outputRead a => Sys2Proof.Machine.execOutputRead a s
  | .protectedWrite m off v => Sys2Proof.Machine.execProtectedWrite m off v s
  | .operandWrite n v => Sys2Proof.Machine.execOperandWrite n v s
  | .frameMark stamp => Sys2Proof.Machine.execFrameMark stamp s
  | .lineRecovery stamp => Sys2Proof.Machine.execLineRecovery stamp s
  | .areaRelease stamp => Sys2Proof.Machine.execAreaRelease stamp s
  | .glideEnd stamp => Sys2Proof.Machine.execGlideEnd stamp s
  | .zoneFallback stamp => Sys2Proof.Machine.execZoneFallback stamp s
  | .tailUpdate v => Sys2Proof.Machine.execTailUpdate v s
  | .permitRequest n => Sys2Proof.Machine.execPermitRequest n s
  | .programmingRequest k v => Sys2Proof.Machine.execProgrammingRequest k v s
  | .imageForeignWrite m k v => Sys2Proof.Machine.execImageForeignWrite m k v s
  | .planWordWrite off v => Sys2Proof.Machine.execPlanWordWrite off v s
  | .load tag unused => Sys2Proof.Machine.execLoad tag unused s
  | .drop tag unused => Sys2Proof.Machine.execDrop tag unused s
  | .arm tag unused => Sys2Proof.Machine.execArm tag unused s
  | .disarm tag unused => Sys2Proof.Machine.execDisarm tag unused s
  | .pin tag unused => Sys2Proof.Machine.execPin tag unused s
  | .free tag unused => Sys2Proof.Machine.execFree tag unused s
  | .mute tag unused => Sys2Proof.Machine.execMute tag unused s
  | .proof tag unused => Sys2Proof.Machine.execProof tag unused s
  | .clear tag unused => Sys2Proof.Machine.execClear tag unused s
  | .watchSet tag unused => Sys2Proof.Machine.execWatchSet tag unused s
  | .watchOff tag unused => Sys2Proof.Machine.execWatchOff tag unused s
  | .watchResetHits tag unused => Sys2Proof.Machine.execWatchResetHits tag unused s
  | .tally tag unused => Sys2Proof.Machine.execTally tag unused s
  | .unknownCommand code tag unused => Sys2Proof.Machine.execUnknownCommand code tag unused s
  | .commandRefused code tag unused => Sys2Proof.Machine.execCommandRefused code tag unused s
  | .portGrant => Sys2Proof.Machine.execPortGrant s
  | .upstreamAccessComplete => Sys2Proof.Machine.execUpstreamAccessComplete s
  | .planReadComplete => Sys2Proof.Machine.execPlanReadComplete s
  | .endOfChecks => Sys2Proof.Machine.execEndOfChecks s
  | .answerWriteComplete => Sys2Proof.Machine.execAnswerWriteComplete s
  | .headWriteComplete => Sys2Proof.Machine.execHeadWriteComplete s
  | .statusWriteComplete => Sys2Proof.Machine.execStatusWriteComplete s
  | .entryProgrammingCompletion => Sys2Proof.Machine.execEntryProgrammingCompletion s
  | .checksumProgrammingCompletion => Sys2Proof.Machine.execChecksumProgrammingCompletion s
  | .yieldAssertion => Sys2Proof.Machine.execYieldAssertion s
  | .yieldDeassertion => Sys2Proof.Machine.execYieldDeassertion s

end Sys2Proof.Machine
end

