-- ==== Sys2Proof/Machine/Step.lean ====
section
/-!
DEFINITION. One step: the command at the front of the queue is executed on the state with the queue's rest; on an empty
queue the part idles, since it has no clock of its own (R125; assumption log 20).
-/
namespace Sys2Proof.Machine

/-- One step. -/
def step (s : State) : Host.Outcome State Fault Refusal :=
  match s.pending with
  | [] => .next s
  | c :: rest => exec c { s with pending := rest }

/-- The table gives no row bits, so no word spells a command and the state is unchanged. -/
def State.withFetchWord (s : State) (_nbits _w : Nat) : State := s

/-- R86: a transaction presented: its words join the queue in burst order, each under the row PLAIN_WORD, which stands
for any upstream word (assumption log 1). -/
def State.present (s : State) (t : Transaction) : State :=
  { s with pending := s.pending ++ (burstWords t).map fun w => .plainWord w.master w.addr w.dir }

end Sys2Proof.Machine
end

