-- ==== Sys2Proof/Safety.lean ====
section
/-!
DEFINITION. The terms claims are stated in: when the part takes a word, what a word in hand and a completed word look
like, the parts of the state and what it means to leave them alone, and the invariants of the part.
-/
namespace Sys2Proof.Machine

/-! ### When a word or an event is taken (R88, R101) -/

/-- The part is out of reset and between two words. -/
abbrev State.betweenWords (s : State) : Prop := s.path.resetHeld = false ∧ s.path.inHand = none

/-- The part is between two words and past start-up, so that the next word is decoded and handed to its owner. -/
abbrev State.takesWords (s : State) : Prop := s.betweenWords ∧ s.command.device ≠ .starting

/-- The part takes a word and no FENCE unit drops it, so that it reaches the owner of its region (R87, R147). -/
abbrev State.takes (s : State) (w : UpWord) : Prop := s.takesWords ∧ fenced s w = false

/-- The state once AW has looked at a word (R145 to R148): the state itself where no unit matches it. -/
abbrev State.looked (s : State) (w : UpWord) : State := awLook w s

/-- No watch unit matches a word (R145). -/
abbrev State.unwatched (s : State) (w : UpWord) : Prop := matchingUnits s w = []

/-- The region an address falls in (R90). -/
abbrev State.region (s : State) (a : Addr) : Region := regionOf s.path.straps s.loader.live a

/-- The word of a CORE write to a plan-area offset. -/
def State.coreWord (s : State) (off : Nat) (v : Word) : UpWord := ⟨.core, planAddr s.path.straps off, .write v⟩

/-- A plan is live and has passed the checks: what `PlansOk` says of every live plan. -/
abbrev State.planned (s : State) (p : Plan) : Prop :=
  s.loader.live = some p ∧ planResult s.path.straps none p = .pass

/-! ### The parts of the state -/

/-- The parts of the state a claim may name. -/
inductive Part where
  | pending | mem
  | straps | resetHeld | inHand | waiting | held | port | count | pointer | ownPL | ownCU | ownRW | ownSS | lastDone
  | lines | areas | taps | guards | yieldLevel
  | loadState | cursor | readInFlight | staleRead | torn | sum | loadWords | standby | live | outcome
  | device | cause | slot | shadow | latched | lastTag | lastStamp
  | watch
  | head | tail | queue | dropped | total | dirty | work
  | words | storeCond | programming | permit | imageCursor | checkPending
  | freeUsed
  deriving DecidableEq, Repr

/-- A part is the same in two states. -/
def Same : Part → State → State → Prop
  | .pending, s, t => t.pending = s.pending
  | .mem, s, t => t.mem = s.mem
  | .straps, s, t => t.path.straps = s.path.straps
  | .resetHeld, s, t => t.path.resetHeld = s.path.resetHeld
  | .inHand, s, t => t.path.inHand = s.path.inHand
  | .waiting, s, t => t.path.waiting = s.path.waiting
  | .held, s, t => t.path.held = s.path.held
  | .port, s, t => t.path.port = s.path.port
  | .count, s, t => t.path.count = s.path.count
  | .pointer, s, t => t.path.pointer = s.path.pointer
  | .ownPL, s, t => t.path.ownPL = s.path.ownPL
  | .ownCU, s, t => t.path.ownCU = s.path.ownCU
  | .ownRW, s, t => t.path.ownRW = s.path.ownRW
  | .ownSS, s, t => t.path.ownSS = s.path.ownSS
  | .lastDone, s, t => t.path.lastDone = s.path.lastDone
  | .lines, s, t => t.lines = s.lines
  | .areas, s, t => t.areas = s.areas
  | .taps, s, t => t.taps = s.taps
  | .guards, s, t => t.guards = s.guards
  | .yieldLevel, s, t => t.yieldLevel = s.yieldLevel
  | .loadState, s, t => t.loader.state = s.loader.state
  | .cursor, s, t => t.loader.cursor = s.loader.cursor
  | .readInFlight, s, t => t.loader.readInFlight = s.loader.readInFlight
  | .staleRead, s, t => t.loader.staleRead = s.loader.staleRead
  | .torn, s, t => t.loader.torn = s.loader.torn
  | .sum, s, t => t.loader.sum = s.loader.sum
  | .loadWords, s, t => t.loader.loadWords = s.loader.loadWords
  | .standby, s, t => t.loader.standby = s.loader.standby
  | .live, s, t => t.loader.live = s.loader.live
  | .outcome, s, t => t.loader.outcome = s.loader.outcome
  | .device, s, t => t.command.device = s.command.device
  | .cause, s, t => t.command.cause = s.command.cause
  | .slot, s, t => t.command.slot = s.command.slot
  | .shadow, s, t => t.command.shadow = s.command.shadow
  | .latched, s, t => t.command.latched = s.command.latched
  | .lastTag, s, t => t.command.lastTag = s.command.lastTag
  | .lastStamp, s, t => t.command.lastStamp = s.command.lastStamp
  | .watch, s, t => t.watch = s.watch
  | .head, s, t => t.writer.head = s.writer.head
  | .tail, s, t => t.writer.tail = s.writer.tail
  | .queue, s, t => t.writer.queue = s.writer.queue
  | .dropped, s, t => t.writer.dropped = s.writer.dropped
  | .total, s, t => t.writer.total = s.writer.total
  | .dirty, s, t => t.writer.dirty = s.writer.dirty
  | .work, s, t => t.writer.work = s.writer.work
  | .words, s, t => t.store.words = s.store.words
  | .storeCond, s, t => t.store.cond = s.store.cond
  | .programming, s, t => t.store.programming = s.store.programming
  | .permit, s, t => t.store.permit = s.store.permit
  | .imageCursor, s, t => t.store.cursor = s.store.cursor
  | .checkPending, s, t => t.store.checkPending = s.store.checkPending
  | .freeUsed, s, t => t.freeUsed = s.freeUsed

/-- Every part not listed is the same in two states: a claim's frame. -/
def KeepsAllBut (changed : List Part) (s t : State) : Prop := ∀ q, q ∉ changed → Same q s t

/-- What a status change touches: the dirty set, and RW's work and writes when it was free (R161, R162). -/
def statusParts : List Part := [.dirty, .work, .ownRW]

/-- What a report request touches: the queue and the counts besides (R155, R156). -/
def reportParts : List Part := [.queue, .dropped, .total, .dirty, .work, .ownRW]

/-- The word of the upstream port that a row of the table stands for, at the strap value held; none for the rows that
are no upstream words (assumption log 1). -/
def presents (c : Instr) (s : State) : Option UpWord :=
  match c with
  | .plainWord m a d => some ⟨m, a, d⟩
  | .fencedWrite m a v => some ⟨m, a, .write v⟩
  | .writerWrite m a v => some ⟨m, a, .write v⟩
  | .lineForeignWrite m a v => some ⟨m, a, .write v⟩
  | .tapRead m a => some ⟨m, a, .read⟩
  | .apertureWrite m a v => some ⟨m, a, .write v⟩
  | .zoneWrite a v => some ⟨.core, a, .write v⟩
  | .zoneForeignWrite m a v => some ⟨m, a, .write v⟩
  | .outputRead a => some ⟨.outDma, a, .read⟩
  | .protectedWrite m off v => some ⟨m, planAddr s.path.straps off.toNat, .write v⟩
  | .operandWrite n v => some (s.coreWord (2 + n.val) v)
  | .frameMark stamp => some (s.coreWord 8 stamp)
  | .lineRecovery stamp => some (s.coreWord 8 stamp)
  | .areaRelease stamp => some (s.coreWord 8 stamp)
  | .glideEnd stamp => some (s.coreWord 8 stamp)
  | .zoneFallback stamp => some (s.coreWord 8 stamp)
  | .tailUpdate v => some (s.coreWord 9 v)
  | .permitRequest n => some (s.coreWord 10 n)
  | .programmingRequest i v => some (s.coreWord (512 + i.val) v)
  | .imageForeignWrite m i v => some ⟨m, planAddr s.path.straps (512 + i.val), .write v⟩
  | .planWordWrite off v => some (s.coreWord off.toNat v)
  | .load tag unused => some (s.coreWord 0 (postWord 1 tag unused))
  | .drop tag unused => some (s.coreWord 0 (postWord 2 tag unused))
  | .arm tag unused => some (s.coreWord 0 (postWord 3 tag unused))
  | .disarm tag unused => some (s.coreWord 0 (postWord 4 tag unused))
  | .pin tag unused => some (s.coreWord 0 (postWord 5 tag unused))
  | .free tag unused => some (s.coreWord 0 (postWord 6 tag unused))
  | .mute tag unused => some (s.coreWord 0 (postWord 7 tag unused))
  | .proof tag unused => some (s.coreWord 0 (postWord 8 tag unused))
  | .clear tag unused => some (s.coreWord 0 (postWord 9 tag unused))
  | .watchSet tag unused => some (s.coreWord 0 (postWord 10 tag unused))
  | .watchOff tag unused => some (s.coreWord 0 (postWord 10 tag unused))
  | .watchResetHits tag unused => some (s.coreWord 0 (postWord 10 tag unused))
  | .tally tag unused => some (s.coreWord 0 (postWord 11 tag unused))
  | .unknownCommand code tag unused => some (s.coreWord 0 (postWord code.toNat tag unused))
  | .commandRefused code tag unused => some (s.coreWord 0 (postWord code.toNat tag unused))
  | .powerOnReset => none
  | .resetPinAsserted => none
  | .resetEnd _ _ => none
  | .startUpCheck => none
  | .imageWriteComplete => none
  | .portGrant => none
  | .upstreamAccessComplete => none
  | .planReadComplete => none
  | .endOfChecks => none
  | .answerWriteComplete => none
  | .headWriteComplete => none
  | .statusWriteComplete => none
  | .entryProgrammingCompletion => none
  | .checksumProgrammingCompletion => none
  | .yieldAssertion => none
  | .yieldDeassertion => none

/-- The plan-area offsets whose CORE writes an owner takes as they pass (R93). -/
def snoopedOffset (off : Nat) : Bool :=
  off = 0 || (2 ≤ off && off ≤ 5) || off = 8 || off = 9 || off = 10 || planWordOffset off

/-- Past start-up a word passes plain and no owner acts on it: it lies in no region, or is a read of the plan area or of
a line memory, or a read of a zone buffer by another master than OUT-DMA, or a write in the plan area that R92 lets
through and no owner takes. -/
def State.passesPlain (s : State) (w : UpWord) : Prop :=
  match s.region w.addr with
  | .noRegion => True
  | .aperture _ _ => False
  | .zoneBuffer _ _ _ => isWrite w.dir = false ∧ w.master ≠ .outDma
  | .lineMemory _ _ => isWrite w.dir = false
  | .planArea off => isWrite w.dir = false ∨
      (protectedOffset off = false ∧ ¬ (512 ≤ off ∧ off ≤ 704) ∧ (w.master = .core → snoopedOffset off = false))

/-- The access of a plain word: at its own address, its data unchanged (R87). -/
def plainAccess (w : UpWord) : Access :=
  match w.dir with
  | .read => .read w.addr
  | .write v => .write w.addr v

/-- How a plain word is answered (R89). -/
def plainForm (w : UpWord) : Form :=
  match w.dir with
  | .read => .plain
  | .write _ => .store

/-- Whether a watch unit matches a word, by the three conditions of R145. -/
abbrev WatchUnit.sees (u : WatchUnit) (w : UpWord) : Prop :=
  u.on = true ∧ (u.base.toNat ≤ w.addr.toNat ∧ w.addr.toNat < u.base.toNat + u.length) ∧
    u.masters.getLsbD (masterCode w.master) = true ∧
    (u.kinds = .either ∨ (u.kinds = .read ∧ isWrite w.dir = false) ∨ (u.kinds = .write ∧ isWrite w.dir = true))

/-! ### Reports and status changes -/

/-- A report asked of RW: what a block says of it (R154). -/
structure Request where
  kind : ReportKind
  subject : Nat
  detailA : Word
  detailB : Word
  deriving DecidableEq, Repr

/-- R155, R156: RW takes a request made under a frame stamp. It accepts it exactly if the queue holds fewer than 8 reports
and the ring's occupancy, the head minus the tail modulo 64, with the queue and this one is at most 63; the report then
joins the queue with the dropped count, which returns to 0. A refused one is counted in both counts. -/
def ReportWriter.asked (stamp : Word) (w : ReportWriter) (q : Request) : ReportWriter :=
  if w.queue.length < 8 ∧ (w.head - w.tail).toNat + w.queue.length + 1 ≤ 63 then
    { w with queue := w.queue ++ [⟨q.kind, q.subject, stamp, q.detailA, q.detailB, w.dropped⟩], dropped := 0 }
  else { w with dropped := min 65535 (w.dropped + 1), total := min 4294967295 (w.total + 1) }

/-- A status change of an offset was made: it is dirty, or RW has begun to write it (R161). -/
def Marked (t : State) (off : Nat) : Prop :=
  off ∈ t.writer.dirty ∨ ∃ v, OwnAccess.statusWrite off v ∈ t.path.ownRW

/-- Between two states these reports were asked of RW, in this order and under this frame stamp, and no other: RW's head,
tail, queue and counts are what taking them makes (R154 to R156); where one was refused, word 19 is marked (R156). -/
def Asks (stamp : Word) (s t : State) (l : List Request) : Prop :=
  let w := l.foldl (ReportWriter.asked stamp) s.writer
  (t.writer.head = w.head ∧ t.writer.tail = w.tail ∧ t.writer.queue = w.queue ∧ t.writer.dropped = w.dropped ∧
    t.writer.total = w.total) ∧
  (w.queue.length < s.writer.queue.length + l.length → Marked t 19)

/-- Between two states one report was asked of RW, under the last frame stamp, and no other (R126, R154 to R156). -/
def Reported (s t : State) (kind : ReportKind) (subject : Nat) (a b : Word) : Prop :=
  Asks s.command.lastStamp s t [⟨kind, subject, a, b⟩]

/-- The requests of a kind about one record. -/
def requestsOf (kind : ReportKind) (subject : Nat) (l : List Request) : List Request :=
  l.filter fun q => q.kind = kind ∧ q.subject = subject

/-! ### What becomes of a word (R87 to R89) -/

/-- A word waits to make these accesses, its answer to be formed as the form says; nothing else has changed since AW
looked at it but the parts named (R87 step 4). -/
def WaitsFor (s t : State) (w : UpWord) (accesses : List Access) (form : Form) (parts : List Part) : Prop :=
  t.path.inHand = some ⟨w, form, accesses, [], watchersOf s w⟩ ∧ KeepsAllBut (.inHand :: parts) (s.looked w) t

/-- A word waits to write to its own address; nothing else has changed but the parts named. -/
def Stores (s t : State) (w : UpWord) (v : Word) (parts : List Part) : Prop :=
  WaitsFor s t w [.write w.addr v] .store parts

/-- A write was dropped: it completed without an access, and nothing else has changed but the parts named (R89). -/
def Dropped (s t : State) (w : UpWord) (parts : List Part) : Prop :=
  t.path.inHand = none ∧ t.path.lastDone = some ⟨w, none⟩ ∧ KeepsAllBut (.inHand :: .lastDone :: parts) (s.looked w) t

/-- What the completion of a read touches of the watch units that matched it (R146, R152). -/
def State.dataParts (s : State) (w : UpWord) : List Part :=
  if watchersOf s w = [] then [] else .watch :: statusParts

/-- A read was answered at once, without an access: the units that matched it take the answer as its data and have their
words marked (R146, R152), and nothing else has changed but the parts named (R89). -/
def Answered (s t : State) (w : UpWord) (x : Word) (parts : List Part) : Prop :=
  t.path.inHand = none ∧ t.path.lastDone = some ⟨w, some x⟩ ∧
    (∀ u : Fin 4, t.unit u =
      if u ∈ watchersOf s w then ((s.looked w).unit u).withData (some x) else (s.looked w).unit u) ∧
    (∀ u : Fin 4, u ∈ watchersOf s w → ∀ n : Fin 4, Marked t (102 + 4 * u.val + n.val)) ∧
    KeepsAllBut (.inHand :: .lastDone :: (s.dataParts w ++ parts)) (s.looked w) t

/-! ### Frame marks -/

/-- The rows of the table that are frame marks of a stamp (assumption log 2). -/
def frameMarkRows (stamp : Word) : List Instr :=
  [.frameMark stamp, .lineRecovery stamp, .areaRelease stamp, .glideEnd stamp, .zoneFallback stamp]

/-- What a frame mark under a live plan may touch besides the word in hand. -/
def frameMarkParts : List Part :=
  [.lastStamp, .lines, .areas, .taps, .guards, .loadState, .standby, .live, .outcome] ++ reportParts

/-- R11, R31, R72 to R74, R117, 1.8: the reports a frame mark asks for under its own stamp: LINE_RECOVERED, ELECTED and
ZONE_STATE of records in use, PLAN_SWAPPED where a plan waits for its swap, and none of another kind or record. -/
def MarkAsks (p : Plan) (stamp : Word) (s t : State) (l : List Request) : Prop :=
  Asks stamp (s.looked (s.coreWord 8 stamp)) t l ∧
  ∀ q ∈ l, (q.kind = .lineRecovered ∧ q.subject < p.lineCount) ∨ (q.kind = .elected ∧ q.subject < p.areaCount) ∨
    (q.kind = .zoneState ∧ q.subject < p.zoneCount) ∨
    (q.kind = .planSwapped ∧ q.subject = 0 ∧ s.loader.state = .waitingSwap)

/-- A line record with its frame peak and its four frame flags cleared for the frame that begins (R13). -/
def LineRec.newFrame (r : LineRec) : LineRec :=
  { r with peak := 0, jumpSeen := false, writeSeen := false, resyncReported := false, foreignReported := false }

/-- An area collects nothing: between two marks every area does (R27). -/
def AreaRec.collectsNothing (r : AreaRec) : Prop := r.stamp = none ∧ r.collection = Vector.replicate 8 none

/-- A candidate of a list whose envelope is greatest, of the lowest index among equals (R29, R30). -/
def IsLoudest (r : AreaRec) (d : Fin 8) (l : List (Fin 8)) : Prop :=
  d ∈ l ∧ ∀ e ∈ l, r.level e < r.level d ∨ (r.level e = r.level d ∧ d ≤ e)

/-! ### Codes and plan fields (11.3, 11.4) -/

/-- 11.4: the codes of report entries and of their subjects and details. -/
structure ReportCodes : Prop where
  kinds : ∀ k, reportCode k = match k with
    | .started => 1
    | .planLoaded => 2
    | .planRejected => 3
    | .planSwapped => 4
    | .elected => 5
    | .zoneState => 6
    | .lineFault => 7
    | .lineRecovered => 8
    | .lineResync => 9
    | .foreignWrite => 10
    | .tapEarly => 11
    | .tapLate => 12
    | .watchHit => 13
    | .storeWritten => 14
    | .storeRefused => 15
    | .storeCheck => 16
    | .commandRefused => 17
    | .yieldChange => 18
  causes : causeCode .powerOn = 1 ∧ causeCode .resetPin = 2
  storeConditions : storeCondCode .valid = 0 ∧ storeCondCode .unsealed = 1 ∧ storeCondCode .invalid = 2
  reasons : loadOutcomeCode .torn = 1 ∧ loadOutcomeCode .checksum = 2 ∧ loadOutcomeCode .invalid = 3 ∧
    loadOutcomeCode .layout = 4 ∧ loadOutcomeCode .abandoned = 5
  loaderStates : loadStateCode .idle = 0 ∧ loadStateCode .reading = 1 ∧ loadStateCode .checking = 2 ∧
    loadStateCode .waitingSwap = 3
  modes : FallbackMode.mute.code = 0 ∧ FallbackMode.fade.code = 1
  masters : masterCode .core = 0 ∧ masterCode .inDma = 1 ∧ masterCode .outDma = 2 ∧ masterCode .aux = 3
  sources : sourceCode none = 255 ∧ ∀ i, sourceCode (some i) = i.val
  addresses : ∀ a, addrWord a = BitVec.ofNat 32 a.toNat

/-- 6.1, 11.3: where the fields of a plan stand among its words, each read as an unsigned number. -/
structure PlanFields (p : Plan) : Prop where
  words : ∀ o, 1024 ≤ o → p.word o = p.getD (o - 1024) 0 ∧ p.num o = (p.word o).toNat
  header : p.planSum = p.word 1024 ∧ p.frameLen = p.num 1025 ∧ p.lineCount = p.num 1026 ∧ p.areaCount = p.num 1027 ∧
    p.zoneCount = p.num 1028 ∧ p.tapBase = p.num 1029 ∧ p.zoneBase = p.num 1030
  lines : ∀ i, p.lineBase i = p.num (1031 + 6 * i) ∧ p.lineLen i = p.num (1032 + 6 * i) ∧
    p.lineWriter i = p.num (1033 + 6 * i) ∧ p.lineRole i = p.num (1034 + 6 * i) ∧
    p.jumpThreshold i = p.num (1035 + 6 * i) ∧ p.recoverFrames i = p.num (1036 + 6 * i)
  writers : ∀ (l : Fin 24) (m : Master), p.isWriter l m = true ↔ p.num (1033 + 6 * l.val) = match m with
    | .core => 0
    | .inDma => 1
    | .outDma => 2
    | .aux => 3
  areas : ∀ a, p.candCount a = p.num (1175 + 14 * a) ∧ (∀ i, p.candLine a i = p.num (1176 + 14 * a + i)) ∧
    p.threshold a = p.num (1184 + 14 * a) ∧ p.margin a = p.num (1185 + 14 * a) ∧
    p.dwellFrames a = p.num (1186 + 14 * a) ∧ p.releaseFrames a = p.num (1187 + 14 * a) ∧
    p.decayShift a = p.num (1188 + 14 * a) % 256 ∧ p.glideFrames a = p.num (1188 + 14 * a) / 256 % 256
  zones : ∀ z, p.programLine z = p.num (1287 + 12 * z) ∧ p.zoneArea z = p.num (1288 + 12 * z) ∧
    p.trim z = p.num (1289 + 12 * z) ∧ p.restDelay z = p.num (1290 + 12 * z) ∧
    (∀ i, p.rowEntry z i = p.num (1291 + 12 * z + i)) ∧
    p.delayBound z = p.num (1032 + 6 * p.num (1287 + 12 * z)) - 2 * p.num 1025

/-! ### The status block (11.5) -/

/-- 11.5, R161: what each word of the status block is to show, field by field; every bit no field names is 0. -/
structure ShowsStatus (s : State) : Prop where
  device : s.statusWord 16 = BitVec.ofNat 32 (match s.command.device with
    | .starting => 0
    | .cold => 1
    | .ready => 2
    | .service => 3)
  loader : s.statusWord 17 = BitVec.ofNat 32 ((match s.loader.state with
    | .idle => 0
    | .reading => 1
    | .checking => 2
    | .waitingSwap => 3) + 256 * (match s.loader.outcome with
    | .none => 0
    | .torn => 1
    | .checksum => 2
    | .invalid => 3
    | .layout => 4
    | .abandoned => 5
    | .loaded => 6
    | .swapped => 7))
  head : s.statusWord 18 = BitVec.ofNat 32 s.writer.head.toNat
  dropped : s.statusWord 19 = BitVec.ofNat 32 s.writer.total
  store : s.statusWord 20 = BitVec.ofNat 32 ((match s.store.cond with
    | .valid => 0
    | .unsealed => 1
    | .invalid => 2) + 256 * (if s.store.programming = none then 0 else 1) + 65536 * (match s.store.permit with
    | none => 255
    | some i => i.val))
  yieldLevel : s.statusWord 21 = BitVec.ofNat 32 (if s.yieldLevel then 1 else 0)
  areaInUse : ∀ (p : Plan) (a : Fin 8), s.loader.live = some p → a.val < p.areaCount →
    s.statusWord (22 + a.val) = BitVec.ofNat 32 ((match (s.area a).elected with
      | none => 255
      | some i => i.val) + 256 * (match (s.area a).pin with
      | none => 255
      | some i => i.val) + 2147483648)
  areaNotInUse : ∀ a : Fin 8, (∀ p, s.loader.live = some p → p.areaCount ≤ a.val) →
    s.statusWord (22 + a.val) = BitVec.ofNat 32 (255 + 256 * 255)
  lineInUse : ∀ (p : Plan) (l : Fin 24), s.loader.live = some p → l.val < p.lineCount →
    s.statusWord (30 + l.val) = BitVec.ofNat 32 ((match (s.line l).cond with
      | .idle => 0
      | .synced => 1
      | .running => 2
      | .faulted => 3) + 2147483648)
  lineNotInUse : ∀ l : Fin 24, (∀ p, s.loader.live = some p → p.lineCount ≤ l.val) → s.statusWord (30 + l.val) = 0
  zoneInUse : ∀ (p : Plan) (z : Fin 48), s.loader.live = some p → z.val < p.zoneCount →
    s.statusWord (54 + z.val) = BitVec.ofNat 32 ((match (s.guard z).state with
      | .dormant => 0
      | .live => 1
      | .lapsing => 2
      | .fallback => 3) + 256 * (if (s.guard z).muted then 1 else 0) + 512 * (if (s.guard z).yielding then 1 else 0) +
      1024 * (if (s.guard z).proof then 1 else 0) + 65536 * (match (s.tap z).glide with
      | .steady _ => 0
      | .gliding _ _ _ _ => 1) + 16777216 * (if (s.tap z).pendingTarget = none then 0 else 1) + 2147483648)
  zoneNotInUse : ∀ z : Fin 48, (∀ p, s.loader.live = some p → p.zoneCount ≤ z.val) → s.statusWord (54 + z.val) = 0
  unit : ∀ u : Fin 4, s.statusWord (102 + 4 * u.val) = BitVec.ofNat 32 ((if (s.unit u).on then 1 else 0) +
    2 * (match (s.unit u).kinds with
      | .read => 1
      | .write => 2
      | .either => 3) + 16 * (s.unit u).masters.toNat + 256 * (match (s.unit u).scope with
      | .standing => 0
      | .service => 1) + 4096 * (match (s.unit u).action with
      | .note => 0
      | .fence => 1) + (match (s.unit u).firstHit with
      | none => 0
      | some h => 65536 + 1048576 * (match h.master with
        | .core => 0
        | .inDma => 1
        | .outDma => 2
        | .aux => 3) + 16777216 * (if h.isWrite then 2 else 1)))
  hits : ∀ u : Fin 4, s.statusWord (103 + 4 * u.val) = BitVec.ofNat 32 (s.unit u).hits
  hitAddress : ∀ u : Fin 4, s.statusWord (104 + 4 * u.val) = match (s.unit u).firstHit with
    | none => 0
    | some h => BitVec.ofNat 32 h.addr.toNat
  hitData : ∀ u : Fin 4, s.statusWord (105 + 4 * u.val) = match (s.unit u).firstHit with
    | none => 0
    | some h => match h.data with
      | none => 0
      | some v => v

/-! ### Posts -/

/-- The post word of a command code, a tag and unused bits, as CORE writes it (11.2). -/
def State.postOf (s : State) (code : Nat) (tag : BitVec 8) (unused : BitVec 16) : UpWord :=
  s.coreWord 0 (postWord code tag unused)

/-- The rows of the table that post a code: the command's own, and the two rows that may name any code. -/
def postRows (code tag : BitVec 8) (unused : BitVec 16) : List Instr :=
  [.unknownCommand code tag unused, .commandRefused code tag unused] ++
    match code.toNat with
    | 1 => [.load tag unused]
    | 2 => [.drop tag unused]
    | 3 => [.arm tag unused]
    | 4 => [.disarm tag unused]
    | 5 => [.pin tag unused]
    | 6 => [.free tag unused]
    | 7 => [.mute tag unused]
    | 8 => [.proof tag unused]
    | 9 => [.clear tag unused]
    | 10 => [.watchSet tag unused, .watchOff tag unused, .watchResetHits tag unused]
    | 11 => [.tally tag unused]
    | _ => []

/-- The part takes a post of a code: the word is taken, and CU is IDLE (R128). -/
abbrev State.takesPost (s : State) (code : Nat) (tag : BitVec 8) (unused : BitVec 16) : Prop :=
  s.takes (s.postOf code tag unused) ∧ s.command.slot = .idle

/-- What every taken post leaves (R128): ANSWERING, the tag, the operands latched, the detail writes and the answer
write issued, the post word waiting to reach memory, and nothing else changed since AW looked at the word but the parts
named. -/
structure Posted (s t : State) (code : Nat) (tag : BitVec 8) (unused : BitVec 16) (x : Answer)
    (details : List OwnAccess) (parts : List Part) : Prop where
  slot : t.command.slot = .answering
  lastTag : t.command.lastTag = some tag
  latched : t.command.latched = s.command.shadow
  writes : t.path.ownCU = s.path.ownCU ++ (details ++ [.answerWrite (answerWord tag x)])
  stores : Stores s t (s.postOf code tag unused) (postWord code tag unused)
    (.slot :: .lastTag :: .latched :: .ownCU :: parts)

/-! ### Invariants -/

/-- The accesses of RW whose end waits for the end of the word in hand (R88). -/
def SlowEvent.ofWriter : SlowEvent → Option OwnAccess
  | .ownWritten x => if x.client = .rw then some x else none
  | .planWordRead _ => none
  | .startUpCheck => none
  | .endOfChecks => none
  | .entryProgrammed => none
  | .checksumProgrammed => none
  | .yieldEdge _ => none

/-- RW's accesses outstanding: one whose end it has not taken, the one at the port, then those issued (R88, R97,
R157). -/
def State.writerAccesses (s : State) : List OwnAccess :=
  s.path.held.filterMap SlowEvent.ofWriter ++ (match s.path.port with
    | some (.own x) => if x.client = .rw then [x] else []
    | some (.upstream _) => []
    | none => []) ++ s.path.ownRW

/-- R97, R155, R157, 9.2: each client's queue holds its own accesses, and only ends that are commands wait for a word;
the posting queue holds at most 8 reports, occupancy and queue together at most 63; and RW has at most one piece of
work outstanding: none, one status write, or what is left of the five writes of the report at the front. -/
def RingOk (s : State) : Prop :=
  (∀ c, ∀ x ∈ s.path.issued c, x.client = c) ∧ (∀ x, .ownWritten x ∈ s.path.held → hasCompletion x = true) ∧
    s.writer.queue.length ≤ 8 ∧ (s.writer.head - s.writer.tail).toNat + s.writer.queue.length ≤ 63 ∧
    match s.writer.work with
    | .free => s.writerAccesses = []
    | .status => ∃ off v, s.writerAccesses = [.statusWrite off v]
    | .report => ∃ r rest k, s.writer.queue = r :: rest ∧ k ≤ 4 ∧
        s.writerAccesses = (reportWrites r s.writer.head).drop k

/-- R161: the dirty set holds offsets 16 to 117, each once. -/
def DirtyOk (s : State) : Prop :=
  s.writer.dirty.Pairwise (· < ·) ∧ ∀ o ∈ s.writer.dirty, 16 ≤ o ∧ o ≤ 117

/-- R95: the arbiter's count never exceeds 8. -/
def CountOk (s : State) : Prop := s.path.count ≤ 8

/-- R169: while the store condition is VALID, the sum of words 0 to 191 equals word 192. -/
def SealOk (s : State) : Prop := s.store.cond = .valid → s.store.entrySum = s.store.checksum

/-- R122, R109, R113, R117: a plan is live exactly in READY and SERVICE and has passed the checks; a standby plan is
held exactly in WAITING_SWAP, beside a live plan whose layout it shares; a reset that lasts leaves MP at its reset
values, the device STARTING and PL IDLE (R101, R110). -/
def PlansOk (s : State) : Prop :=
  (s.loader.live.isSome ↔ s.command.device = .ready ∨ s.command.device = .service) ∧
  (∀ p, s.loader.live = some p → planResult s.path.straps none p = .pass) ∧
  (∀ q, s.loader.standby = some q →
    ∃ p, s.loader.live = some p ∧ planResult s.path.straps (some p) q = .pass) ∧
  (s.loader.standby.isSome ↔ s.loader.state = .waitingSwap) ∧
  (s.path.resetHeld = true →
    s.path = MemPath.reset s.path.straps ∧ s.command.device = .starting ∧ s.loader.state = .idle)

/-- R23: a pinned area's source is its pin, and a source is a candidate index of an area in use. -/
def ElectionOk (s : State) : Prop :=
  ∀ a : Fin 8,
    (∀ i, (s.area a).pin = some i → (s.area a).elected = some i) ∧
    (∀ i, (s.area a).elected = some i →
      ∃ p, s.loader.live = some p ∧ a.val < p.areaCount ∧ i.val < p.candCount a.val)

/-- R42: the delays of a tap record lie within a bound, and a glide's step is below its length. -/
def TapRec.within (r : TapRec) (bound : Nat) : Prop :=
  (match r.glide with
    | .steady d => d ≤ bound
    | .gliding a b k g => a ≤ bound ∧ b ≤ bound ∧ k < g) ∧
  ∀ t, r.pendingTarget = some t → t ≤ bound

/-- R42: every delay TE uses for a zone in use lies between 0 and its programme line's length − 2F. -/
def DelaysOk (s : State) : Prop :=
  ∀ p, s.loader.live = some p → ∀ z : Fin 48, z.val < p.zoneCount → (s.tap z).within (p.delayBound z.val)

/-- R27: between two commands no area collects anything; a mark's collections are complete and decided within it. -/
def CollectionsOk (s : State) : Prop := ∀ a : Fin 8, (s.area a).collectsNothing

/-- The plan, election, collection and delay invariants together: each step keeps them, none alone. -/
def AlignmentOk (s : State) : Prop := PlansOk s ∧ ElectionOk s ∧ CollectionsOk s ∧ DelaysOk s

/-! ### What a frame mark leaves of a line (R10, R11) -/

/-- R10, R11: the condition of a line after its work at a mark. -/
def markedCond (p : Plan) (l : Fin 24) (r : LineRec) : Cond :=
  match r.cond with
  | .idle => .idle
  | .synced => .running
  | .running => .running
  | .faulted =>
    if r.writeSeen && !r.jumpSeen && decide (p.recoverFrames l.val ≤ r.quiet + 1) then .running else .faulted

/-- R12: the level report the line at candidate index i of an area sends at a mark. -/
def markLevel (p : Plan) (a i : Fin 8) (s : State) : Level :=
  let l := lineNo (p.candLine a.val i.val)
  ⟨markedCond p l (s.line l), (s.line l).peak⟩

/-- R28: the area's record with the collection of a mark, in which every candidate has reported. -/
def markCollected (p : Plan) (a : Fin 8) (s : State) : AreaRec :=
  { s.area a with
    collection := Vector.ofFn fun i => if i.val < p.candCount a.val then some (markLevel p a i s) else none }

/-- R24, R27, R28, R31: what a frame mark that asks for these reports leaves of an area: in SERVICE its complete
collection is decided, and a switch is reported and marks its word; otherwise its record stands. Nothing but a switch is
reported of it. `renew` is what the rest of the mark makes of the record. -/
def DecidedAtMark (p : Plan) (a : Fin 8) (renew : AreaRec → AreaRec) (s t : State) (l : List Request) : Prop :=
  let r := weighed p a (markCollected p a s)
  let asks := requestsOf .elected a.val l
  (s.command.device ≠ .service ∨ p.areaCount ≤ a.val ∨ p.candCount a.val = 0 →
    t.area a = renew (s.area a) ∧ asks = []) ∧
  (s.command.device = .service → a.val < p.areaCount → 0 < p.candCount a.val →
    ((s.area a).pin ≠ none → t.area a = renew r.emptied ∧ asks = []) ∧
    (∀ q, (s.area a).pin = none → verdict p a r = .keep q → t.area a = renew { r.emptied with quiet := q } ∧ asks = []) ∧
    (∀ x, (s.area a).pin = none → verdict p a r = .switch x →
      t.area a = renew { r.emptied with elected := x, dwell := 0, quiet := 0 } ∧ Marked t (22 + a.val) ∧
      asks = [⟨.elected, a.val, word (sourceCode (s.area a).elected), word (sourceCode x)⟩]))

/-- R36: what a swap makes of an area's record: the envelopes of the candidate indices whose line differs become 0. -/
def swapRenews (p q : Plan) (a : Fin 8) (r : AreaRec) : AreaRec :=
  if a.val < q.areaCount then
    { r with
      envelope := Vector.ofFn fun i =>
        if i.val < q.candCount a.val ∧ q.candLine a.val i.val ≠ p.candLine a.val i.val then 0 else r.level i }
  else r

/-! ### The reports of a tap read out of bounds (R45, R46) -/

/-- R45, R46: the reports a tap read of a zone asks for, its delays classified in order by how far the head stands from
their positions, given the kinds reported in the frame before: each early or late one whose kind is not yet reported
asks for its report, and then its kind is. -/
def boundRequests (z : Fin 48) (length : Nat) (ahead : Nat → Word) (early late : Bool) : List Nat → List Request
  | [] => []
  | d :: rest =>
    if (ahead d).toInt < 1 then
      (if early then [] else [⟨.tapEarly, z.val, word d, ahead d⟩]) ++ boundRequests z length ahead true late rest
    else if (length : Int) < (ahead d).toInt then
      (if late then [] else [⟨.tapLate, z.val, word d, ahead d⟩]) ++ boundRequests z length ahead early true rest
    else boundRequests z length ahead early late rest

/-! ### What a frame mark leaves of a zone's tap record (R53 to R55) -/

/-- R53 to R55: TE's own work at a mark, as the table of 3.7 gives it, for a zone of an area with these glide frames. -/
def tapAfterMark (r : TapRec) (length : Nat) : TapRec :=
  let rest (d : Nat) : TapRec := match r.pendingTarget with
    | some x =>
      if x = d then { r with glide := .steady d, pendingTarget := none }
      else { r with glide := .gliding d x 0 length, pendingTarget := none }
    | none => { r with glide := .steady d }
  { (match r.glide with
      | .steady d => rest d
      | .gliding da db k g => if k + 1 < g then { r with glide := .gliding da db (k + 1) g } else rest db) with
    earlyReported := false, lateReported := false }

/-- R50: the pending target of a zone with this glide state after a notice of a target. -/
def pendingAfter (g : Glide) (target : Nat) : Option Nat :=
  let heading := match g with
    | .steady d => d
    | .gliding _ b _ _ => b
  if target = heading then none else some target

/-! ### Which word of a plan offends (R103 to R109) -/

/-- R104: the header words that fail their checks. -/
def Plan.headerOffends (p : Plan) (o : Nat) : Prop :=
  let F := p.num 1025
  let zones := p.num 1028
  (o = 1025 ∧ ¬ (F = 16 ∨ F = 32 ∨ F = 64 ∨ F = 128 ∨ F = 256)) ∨
  (o = 1026 ∧ ¬ (1 ≤ p.num 1026 ∧ p.num 1026 ≤ 24)) ∨
  (o = 1027 ∧ ¬ (1 ≤ p.num 1027 ∧ p.num 1027 ≤ 8)) ∨
  (o = 1028 ∧ ¬ (1 ≤ zones ∧ zones ≤ 48)) ∨
  (o = 1029 ∧ 67108863 < p.num 1029 + zones * F - 1) ∨
  (o = 1030 ∧ 67108863 < p.num 1030 + zones * (2 * F) - 1)

/-- R105: the words of the examined line records that fail their checks. -/
def Plan.lineOffends (p : Plan) (o : Nat) : Prop :=
  ∃ i, i < p.num 1026 ∧
    let at_ := 1031 + 6 * i
    let v (k : Nat) : Nat := p.num (at_ + k)
    (o = at_ ∧ 67108863 < v 0) ∨
    (o = at_ + 1 ∧ ¬ ((∃ e, 10 ≤ e ∧ e ≤ 16 ∧ v 1 = 2 ^ e) ∧ v 0 % v 1 = 0)) ∨
    (o = at_ + 2 ∧ 3 < v 2) ∨
    (o = at_ + 3 ∧ v 3 ≠ 1 ∧ v 3 ≠ 2) ∨
    (o = at_ + 4 ∧ 8388607 < v 4) ∨
    (o = at_ + 5 ∧ ¬ (1 ≤ v 5 ∧ v 5 ≤ 255))

/-- R106: the words of the examined area records that fail their checks; a repeated candidate line offends where it
appears again. -/
def Plan.areaOffends (p : Plan) (o : Nat) : Prop :=
  ∃ a, a < p.num 1027 ∧
    let at_ := 1175 + 14 * a
    let v (k : Nat) : Nat := p.num (at_ + k)
    let shift := v 13 % 256
    let glide := v 13 / 256 % 256
    (o = at_ ∧ 8 < v 0) ∨
    (∃ j, j < v 0 ∧ o = at_ + 1 + j ∧
      ¬ (v (1 + j) < p.num 1026 ∧ p.num (1034 + 6 * v (1 + j)) = 1 ∧ ∀ k, k < j → v (1 + k) ≠ v (1 + j))) ∨
    (o = at_ + 9 ∧ 8388607 < v 9) ∨
    (o = at_ + 10 ∧ 8388607 < v 10) ∨
    (o = at_ + 11 ∧ 255 < v 11) ∨
    (o = at_ + 12 ∧ 255 < v 12) ∨
    (o = at_ + 13 ∧ ¬ (1 ≤ shift ∧ shift ≤ 8 ∧ 1 ≤ glide ∧ glide ≤ 64 ∧ v 13 < 65536))

/-- R107: the words of the examined zone records that fail their checks. -/
def Plan.zoneOffends (p : Plan) (o : Nat) : Prop :=
  ∃ z, z < p.num 1028 ∧
    let at_ := 1287 + 12 * z
    let v (k : Nat) : Nat := p.num (at_ + k)
    let length := p.num (1032 + 6 * v 0)
    let window := 2 * p.num 1025
    (o = at_ ∧ ¬ (v 0 < p.num 1026 ∧ p.num (1034 + 6 * v 0) = 2)) ∨
    (o = at_ + 1 ∧ p.num 1027 ≤ v 1) ∨
    (o = at_ + 2 ∧ 4095 < v 2) ∨
    (o = at_ + 3 ∧ length < v 3 + window) ∨
    (∃ i, i < p.num (1175 + 14 * v 1) ∧ o = at_ + 4 + i ∧ length < v (4 + i) + window)

/-- R103 to R107: the examined words that fail their checks, each by its offset. -/
def Plan.offends (p : Plan) (o : Nat) : Prop :=
  p.headerOffends o ∨ p.lineOffends o ∨ p.areaOffends o ∨ p.zoneOffends o

/-- R109: the layout words of a plan: the header words 1025 to 1030, words +0 to +3 of each line record in use, word +0 of
each area record in use, and words +0 and +1 of each zone record in use. -/
def Plan.laysOut (p : Plan) (o : Nat) : Prop :=
  (1025 ≤ o ∧ o ≤ 1030) ∨ (∃ i k, i < p.num 1026 ∧ k ≤ 3 ∧ o = 1031 + 6 * i + k) ∨
    (∃ a, a < p.num 1027 ∧ o = 1175 + 14 * a) ∨ (∃ z k, z < p.num 1028 ∧ k ≤ 1 ∧ o = 1287 + 12 * z + k)

/-- An address lies in a region. -/
def PlacedRegion.holds (r : PlacedRegion) (a : Nat) : Prop := r.base ≤ a ∧ a < r.base + r.length

/-- R108: the region placed by word k of the order meets the plan area or a region placed before it. -/
def Plan.overlapsAt (p : Plan) (straps : BitVec 6) (k : Nat) : Prop :=
  ∃ r, p.regions[k]? = some r ∧
    ((∃ a, r.holds a ∧ straps.toNat * 1048576 ≤ a ∧ a ≤ straps.toNat * 1048576 + 4095) ∨
      ∃ j q, j < k ∧ p.regions[j]? = some q ∧ ∃ a, r.holds a ∧ q.holds a)

end Sys2Proof.Machine
end

