-- ==== Sys2Proof/Certificates/Slice0/Obligations.lean ====
section
/-!
DEFINITION. The obligations. Each speaks of `exec` or `step` answering a next state and says what that state holds; a
word's statements are told from the state once AW has looked at the word (`State.looked`), which is the state itself
where no watch unit matches it.
-/
open Sys2Proof Sys2Proof.Machine

/-! ### Lines (chapter 1) -/

/-- R5: the first writer write to an IDLE line is a sync. -/
def Obligations.SyncOfAnIdleLine : Prop :=
  ∀ (s : State) (p : Plan) (l : Fin 24) (o : Nat) (m : Master) (a : Addr) (v : Word),
    s.takes ⟨m, a, .write v⟩ → s.loader.live = some p → s.region a = .lineMemory l o → p.isWriter l m →
    (s.line l).cond = .idle →
    ∃ t, exec (.writerWrite m a v) s = .next t ∧
      t.line l = { s.line l with
        head := word (o + 1), prev := none, cond := .synced
        writeSeen := true, peak := max (s.line l).peak (legalSample v).natAbs } ∧
      (o + 1 = p.lineLen l.val → (t.line l).head = word (p.lineLen l.val) ∧
        (t.line l).head.toNat % p.lineLen l.val = 0) ∧
      (∀ k, k ≠ l → t.line k = s.line k) ∧
      Marked t (30 + l.val) ∧
      Stores s t ⟨m, a, .write v⟩ (ofSample (legalSample v)) (.lines :: statusParts)

/-- R3, R6, R7: a writer write in order is accepted; a jump makes the line FAULTED. -/
def Obligations.AcceptedWriteInOrder : Prop :=
  ∀ (s : State) (p : Plan) (l : Fin 24) (o : Nat) (m : Master) (a : Addr) (v : Word),
    s.takes ⟨m, a, .write v⟩ → s.loader.live = some p → s.region a = .lineMemory l o → p.isWriter l m →
    (s.line l).cond ≠ .idle → o = (s.line l).head.toNat % p.lineLen l.val →
    let x := legalSample v
    let kept : LineRec := { s.line l with
      head := (s.line l).head + 1, prev := some x, writeSeen := true, peak := max (s.line l).peak x.natAbs }
    ∃ t, exec (.writerWrite m a v) s = .next t ∧
      (∀ k, k ≠ l → t.line k = s.line k) ∧
      ((∀ y, (s.line l).prev = some y → p.jumpThreshold l.val ≠ 0 → (x - y).natAbs ≤ p.jumpThreshold l.val) →
        t.line l = kept ∧ Stores s t ⟨m, a, .write v⟩ (ofSample x) [.lines]) ∧
      (∀ y, (s.line l).prev = some y → p.jumpThreshold l.val ≠ 0 → p.jumpThreshold l.val < (x - y).natAbs →
        t.line l = { kept with jumpSeen := true, cond := .faulted, quiet := 0 } ∧
        ((s.line l).cond = .faulted → Stores s t ⟨m, a, .write v⟩ (ofSample x) [.lines]) ∧
        ((s.line l).cond ≠ .faulted →
          Reported (s.looked ⟨m, a, .write v⟩) t .lineFault l.val (s.line l).head (word (x - y).natAbs) ∧
          Marked t (30 + l.val) ∧
          Stores s t ⟨m, a, .write v⟩ (ofSample x) (.lines :: reportParts)))

/-- R3, R8: a writer write out of order is a resync, reported once per frame. -/
def Obligations.ResyncOutOfOrder : Prop :=
  ∀ (s : State) (p : Plan) (l : Fin 24) (o : Nat) (m : Master) (a : Addr) (v : Word),
    s.takes ⟨m, a, .write v⟩ → s.loader.live = some p → s.region a = .lineMemory l o → p.isWriter l m →
    (s.line l).cond ≠ .idle → o ≠ (s.line l).head.toNat % p.lineLen l.val →
    ∃ t, exec (.writerWrite m a v) s = .next t ∧
      t.line l = { s.line l with
        head := word (o + 1), prev := none, anchorValid := false, resyncReported := true
        cond := if (s.line l).cond = .running then .synced else (s.line l).cond
        quiet := if (s.line l).cond = .faulted then 0 else (s.line l).quiet
        writeSeen := true, peak := max (s.line l).peak (legalSample v).natAbs } ∧
      (∀ k, k ≠ l → t.line k = s.line k) ∧
      ((s.line l).cond = .running → Marked t (30 + l.val)) ∧
      ((s.line l).resyncReported = false →
        Reported (s.looked ⟨m, a, .write v⟩) t .lineResync l.val (word o)
          (word ((s.line l).head.toNat % p.lineLen l.val))) ∧
      Stores s t ⟨m, a, .write v⟩ (ofSample (legalSample v))
        (if (s.line l).resyncReported then
          (if (s.line l).cond = .running then .lines :: statusParts else [.lines])
        else .lines :: reportParts)

/-- R9: a write to a line by a master other than its writer is dropped and reported once per frame. -/
def Obligations.LineForeignWriteDropped : Prop :=
  ∀ (s : State) (p : Plan) (l : Fin 24) (o : Nat) (m : Master) (a : Addr) (v : Word),
    s.takes ⟨m, a, .write v⟩ → s.loader.live = some p → s.region a = .lineMemory l o → p.isWriter l m = false →
    ∃ t, exec (.lineForeignWrite m a v) s = .next t ∧
      t.line l = { s.line l with foreignReported := true } ∧
      (∀ k, k ≠ l → t.line k = s.line k) ∧
      ((s.line l).foreignReported = true → Dropped s t ⟨m, a, .write v⟩ []) ∧
      ((s.line l).foreignReported = false →
        Reported (s.looked ⟨m, a, .write v⟩) t .foreignWrite l.val (addrWord a) (word (masterCode m)) ∧
        Dropped s t ⟨m, a, .write v⟩ (.lines :: reportParts))

/-- R10, R11, R13, 1.8: what a frame mark does to every line; LINE_RECOVERY is its FAULTED line whose count suffices, and
no other line is reported. -/
def Obligations.FrameMarkOnLines : Prop :=
  ∀ (s : State) (p : Plan) (stamp : Word) (c : Instr), c ∈ frameMarkRows stamp →
    s.takes (s.coreWord 8 stamp) → s.loader.live = some p →
    ∃ t reports, exec c s = .next t ∧ t.command.lastStamp = stamp ∧
      Stores s t (s.coreWord 8 stamp) stamp frameMarkParts ∧
      MarkAsks p stamp s t reports ∧
      ∀ l : Fin 24,
        let r := s.line l
        let anchored : LineRec := { r.newFrame with anchor := r.head, anchorValid := true }
        let asks := requestsOf .lineRecovered l.val reports
        (p.lineCount ≤ l.val → t.line l = r ∧ asks = []) ∧
        (l.val < p.lineCount →
          (r.cond = .idle → t.line l = r.newFrame ∧ asks = []) ∧
          (r.cond = .synced → t.line l = { anchored with cond := .running } ∧ Marked t (30 + l.val) ∧ asks = []) ∧
          (r.cond = .running → t.line l = anchored ∧ asks = []) ∧
          (r.cond = .faulted → (r.writeSeen = false ∨ r.jumpSeen = true) → t.line l = anchored ∧ asks = []) ∧
          (r.cond = .faulted → r.writeSeen = true → r.jumpSeen = false → r.quiet + 1 < p.recoverFrames l.val →
            t.line l = { anchored with quiet := r.quiet + 1 } ∧ asks = []) ∧
          (r.cond = .faulted → r.writeSeen = true → r.jumpSeen = false → p.recoverFrames l.val ≤ r.quiet + 1 →
            t.line l = { anchored with cond := .running, quiet := 0 } ∧ Marked t (30 + l.val) ∧
            asks = [⟨.lineRecovered, l.val, r.head, word (r.quiet + 1)⟩]))

/-! ### Areas (chapter 2) -/

/-- R28 to R30: what a decision makes of an area's record and collection. -/
def Obligations.ElectionDecision : Prop :=
  ∀ (p : Plan) (a : Fin 8) (r : AreaRec),
    (∀ i : Fin 8, (weighed p a r).level i =
      if i.val < p.candCount a.val then
        (if (r.report i).cond = .idle ∨ (r.report i).cond = .faulted then 0
        else max (r.level i - r.level i / 2 ^ p.decayShift a.val) (r.report i).peak)
      else r.level i) ∧
    (weighed p a r).dwell = min 255 (r.dwell + 1) ∧
    (∀ i : Fin 8, i ∈ eligibles p a r ↔
      i.val < p.candCount a.val ∧ ((r.report i).cond = .running ∨ (r.report i).cond = .synced) ∧
        p.threshold a.val ≤ r.level i) ∧
    (∀ c, r.elected = some c → c ∈ eligibles p a r →
      (∀ d, IsLoudest r d ((eligibles p a r).filter (· ≠ c)) →
        verdict p a r =
          if p.dwellFrames a.val ≤ r.dwell ∧ r.level c + p.margin a.val ≤ r.level d then .switch (some d)
          else .keep 0) ∧
      ((∀ d ∈ eligibles p a r, d = c) → verdict p a r = .keep 0)) ∧
    ((∀ c, r.elected = some c → c ∉ eligibles p a r) →
      (∀ d, IsLoudest r d (eligibles p a r) → verdict p a r = .switch (some d)) ∧
      (eligibles p a r = [] →
        (r.elected = none → verdict p a r = .keep r.quiet) ∧
        (∀ c, r.elected = some c →
          verdict p a r =
            if (r.report c).cond = .faulted ∨ p.releaseFrames a.val ≤ r.quiet + 1 then .switch none
            else .keep (r.quiet + 1))))

/-- R24, R27, R28, R31: what a frame mark does to an area that collects nothing before it, as every area does by
`AlignmentStaysSound`: in SERVICE its complete collection is decided, and a switch and nothing else is reported of it;
otherwise nothing changes. AREA_RELEASE is the switch to NONE. -/
def Obligations.FrameMarkDecidesAreas : Prop :=
  ∀ (s : State) (p : Plan) (stamp : Word) (c : Instr) (a : Fin 8), c ∈ frameMarkRows stamp →
    s.takes (s.coreWord 8 stamp) → s.planned p → s.loader.standby = none → (s.area a).collectsNothing →
    ∃ t reports, exec c s = .next t ∧ MarkAsks p stamp s t reports ∧ DecidedAtMark p a (fun r => r) s t reports

/-! ### Taps (chapter 3) -/

/-- R44, R146: a tap read from a line that is not RUNNING is void, with no access and no report. -/
def Obligations.TapReadOfUnusableLine : Prop :=
  ∀ (s : State) (p : Plan) (z : Fin 48) (j : Nat) (l : Fin 24) (m : Master) (a : Addr),
    s.takes ⟨m, a, .read⟩ → s.loader.live = some p → s.region a = .aperture z j → l.val = p.programLine z.val →
    (s.guard z).proof = false → (s.line l).cond ≠ .running →
    ∃ t, exec (.tapRead m a) s = .next t ∧ Answered s t ⟨m, a, .read⟩ voidCode []

/-- R43, R45, R47, R48, R49: a read whose positions are good fetches the sample at a STEADY zone's delay, to be trimmed, or
the samples at a GLIDING zone's two delays, to be blended and trimmed. -/
def Obligations.TapReadInBounds : Prop :=
  (∀ (s : State) (p : Plan) (z : Fin 48) (j : Nat) (l : Fin 24) (m : Master) (a : Addr) (d : Nat),
    s.takes ⟨m, a, .read⟩ → s.loader.live = some p → s.region a = .aperture z j → l.val = p.programLine z.val →
    (s.guard z).proof = false → (s.line l).cond = .running → (s.tap z).glide = .steady d →
    let position : Word := (s.line l).anchor - word p.frameLen - word d + word j
    1 ≤ ((s.line l).head - position).toInt → ((s.line l).head - position).toInt ≤ p.lineLen l.val →
    ∃ t, exec (.tapRead m a) s = .next t ∧
      WaitsFor s t ⟨m, a, .read⟩ [.read (BitVec.ofNat 26 (p.lineBase l.val + position.toNat % p.lineLen l.val))]
        (.steady z (s.tap z).trim) []) ∧
  (∀ (s : State) (p : Plan) (z : Fin 48) (j : Nat) (l : Fin 24) (m : Master) (a : Addr) (da db k g : Nat),
    s.takes ⟨m, a, .read⟩ → s.loader.live = some p → s.region a = .aperture z j → l.val = p.programLine z.val →
    (s.guard z).proof = false → (s.line l).cond = .running → (s.tap z).glide = .gliding da db k g →
    let r := s.line l
    let position (d : Nat) : Word := r.anchor - word p.frameLen - word d + word j
    let place (d : Nat) : Addr := BitVec.ofNat 26 (p.lineBase l.val + (position d).toNat % p.lineLen l.val)
    (∀ d ∈ [da, db], 1 ≤ (r.head - position d).toInt ∧ (r.head - position d).toInt ≤ p.lineLen l.val) →
    ∃ t, exec (.tapRead m a) s = .next t ∧
      WaitsFor s t ⟨m, a, .read⟩ [.read (place da), .read (place db)]
        (.blend z (256 * (k * p.frameLen + j) / (g * p.frameLen)) (s.tap z).trim) [])

/-- R45, R46: a read whose position, or either of whose positions, is early or late is void, and reported once per
kind, zone and frame: the position of a first, and none for a kind reported before. -/
def Obligations.TapReadOutOfBounds : Prop :=
  ∀ (s : State) (p : Plan) (z : Fin 48) (j : Nat) (l : Fin 24) (m : Master) (a : Addr) (delays : List Nat),
    s.takes ⟨m, a, .read⟩ → s.loader.live = some p → s.region a = .aperture z j → l.val = p.programLine z.val →
    (s.guard z).proof = false → (s.line l).cond = .running →
    ((∃ d, (s.tap z).glide = .steady d ∧ delays = [d]) ∨
      (∃ da db k g, (s.tap z).glide = .gliding da db k g ∧ delays = [da, db])) →
    let r := s.line l
    let ahead (d : Nat) : Word := r.head - (r.anchor - word p.frameLen - word d + word j)
    let early := delays.filter fun d => decide ((ahead d).toInt < 1)
    let late := delays.filter fun d => decide ((p.lineLen l.val : Int) < (ahead d).toInt)
    let asked := boundRequests z (p.lineLen l.val) ahead (s.tap z).earlyReported (s.tap z).lateReported delays
    early ++ late ≠ [] →
    ∃ t, exec (.tapRead m a) s = .next t ∧
      t.tap z = { s.tap z with
        earlyReported := (s.tap z).earlyReported || !early.isEmpty
        lateReported := (s.tap z).lateReported || !late.isEmpty } ∧
      (∀ k, k ≠ z → t.tap k = s.tap k) ∧
      Asks s.command.lastStamp (s.looked ⟨m, a, .read⟩) t asked ∧
      Answered s t ⟨m, a, .read⟩ voidCode (if asked = [] then [] else .taps :: reportParts)

/-- R58: a read of a zone whose PROOF flag is set fetches the word of the half CORE last wrote, as it stands. -/
def Obligations.TapReadLoopAround : Prop :=
  ∀ (s : State) (p : Plan) (z : Fin 48) (j : Nat) (m : Master) (a : Addr),
    s.takes ⟨m, a, .read⟩ → s.loader.live = some p → s.region a = .aperture z j → (s.guard z).proof = true →
    ∃ t, exec (.tapRead m a) s = .next t ∧
      WaitsFor s t ⟨m, a, .read⟩
        [.read (BitVec.ofNat 26 (p.zoneBase + 2 * p.frameLen * z.val + (s.guard z).lastHalf.val * p.frameLen + j))]
        .plain []

/-- R60: a write to the aperture by any master is dropped, and each word is reported. -/
def Obligations.ApertureWriteDropped : Prop :=
  ∀ (s : State) (p : Plan) (z : Fin 48) (j : Nat) (m : Master) (a : Addr) (v : Word),
    s.takes ⟨m, a, .write v⟩ → s.loader.live = some p → s.region a = .aperture z j →
    ∃ t, exec (.apertureWrite m a v) s = .next t ∧
      Reported (s.looked ⟨m, a, .write v⟩) t .foreignWrite z.val (addrWord a) (word (masterCode m)) ∧
      Dropped s t ⟨m, a, .write v⟩ reportParts

/-- R50, R53 to R55: what a frame mark does to every zone's tap record where no area collects anything before it (kept
by `AlignmentStaysSound`), with the notice a switch of its area sends it after TE's own work; GLIDE_END is the glide
whose next step is its length. -/
def Obligations.FrameMarkOnTaps : Prop :=
  (∀ g : Glide, g.isGliding = true ↔ ∃ a b k n, g = .gliding a b k n) ∧
  ∀ (s : State) (p : Plan) (stamp : Word) (c : Instr), c ∈ frameMarkRows stamp →
    s.takes (s.coreWord 8 stamp) → s.planned p → s.loader.standby = none →
    (∀ a : Fin 8, (s.area a).collectsNothing) →
    ∃ t, exec c s = .next t ∧
      ∀ z : Fin 48,
        let r := s.tap z
        let own := tapAfterMark r (p.glideFrames (p.zoneArea z.val))
        (p.zoneCount ≤ z.val → t.tap z = r) ∧
        (z.val < p.zoneCount → ∀ a : Fin 8, a.val = p.zoneArea z.val →
          ((t.area a).elected = (s.area a).elected ∨ (t.area a).elected = none → t.tap z = own) ∧
          (∀ i, (t.area a).elected = some i → (t.area a).elected ≠ (s.area a).elected →
            t.tap z = { own with pendingTarget := pendingAfter own.glide (p.rowEntry z.val i.val) }) ∧
          ((t.tap z).glide.isGliding ≠ r.glide.isGliding ∨ (t.tap z).pendingTarget.isSome ≠ r.pendingTarget.isSome →
            Marked t (54 + z.val)))

/-! ### Zone outputs (chapter 4) -/

/-- R67: a zone write is clamped to the legal range and to the ceiling, counted and stored. -/
def Obligations.ZoneWriteClamped : Prop :=
  ∀ (s : State) (p : Plan) (z : Fin 48) (half : Fin 2) (j : Nat) (a : Addr) (v : Word),
    s.takes ⟨.core, a, .write v⟩ → s.loader.live = some p → s.region a = .zoneBuffer z half j →
    let x := clampTo (s.store.effective z).ceiling (clampTo 8388607 v.toInt)
    ∃ t, exec (.zoneWrite a v) s = .next t ∧
      t.guard z = { s.guard z with
        fed := min (2 * p.frameLen) ((s.guard z).fed + 1)
        lastHalf := half
        ceilingCount := if x = v.toInt then (s.guard z).ceilingCount else min 65535 ((s.guard z).ceilingCount + 1) } ∧
      (∀ k, k ≠ z → t.guard k = s.guard k) ∧
      Stores s t ⟨.core, a, .write v⟩ (BitVec.ofInt 32 x) [.guards]

/-- R69: a write to a zone buffer by another master than CORE is dropped, and each word is reported. -/
def Obligations.ZoneForeignWriteDropped : Prop :=
  ∀ (s : State) (p : Plan) (z : Fin 48) (half : Fin 2) (j : Nat) (m : Master) (a : Addr) (v : Word),
    s.takes ⟨m, a, .write v⟩ → s.loader.live = some p → s.region a = .zoneBuffer z half j → m ≠ .core →
    ∃ t, exec (.zoneForeignWrite m a v) s = .next t ∧
      Reported (s.looked ⟨m, a, .write v⟩) t .foreignWrite z.val (addrWord a) (word (masterCode m)) ∧
      Dropped s t ⟨m, a, .write v⟩ reportParts

/-- R75: an output read is answered by the first line of the table that applies to the zone. -/
def Obligations.OutputReadAnswered : Prop :=
  ∀ (s : State) (p : Plan) (z : Fin 48) (half : Fin 2) (j : Nat) (a : Addr),
    s.takes ⟨.outDma, a, .read⟩ → s.loader.live = some p → s.region a = .zoneBuffer z half j →
    let g := s.guard z
    let silenced := g.muted = true ∨ g.yielding = true ∨ g.proof = true
    let w : UpWord := ⟨.outDma, a, .read⟩
    ∃ t, exec (.outputRead a) s = .next t ∧
      (silenced → Answered s t w 0 []) ∧
      (¬ silenced →
        (g.state = .dormant → Answered s t w 0 []) ∧
        (g.state = .live ∨ g.state = .lapsing → WaitsFor s t w [.read a] .checked []) ∧
        (g.state = .fallback → (s.store.effective z).mode = .mute → Answered s t w 0 []) ∧
        (g.state = .fallback → (s.store.effective z).mode = .fade → WaitsFor s t w [.read a] (.faded g.fade) []))

/-- R71 to R74: what a frame mark does to every zone's guard record; ZONE_FALLBACK is the unfed zone whose watch frames
are reached. A zone that enters FALLBACK or leaves it is reported, and no other. -/
def Obligations.FrameMarkOnGuards : Prop :=
  ∀ (s : State) (p : Plan) (stamp : Word) (c : Instr), c ∈ frameMarkRows stamp →
    s.takes (s.coreWord 8 stamp) → s.loader.live = some p →
    ∃ t reports, exec c s = .next t ∧ MarkAsks p stamp s t reports ∧
      ∀ z : Fin 48,
        let g := s.guard z
        let e := s.store.effective z
        let active := g.state = .live ∨ g.state = .lapsing
        let asks := requestsOf .zoneState z.val reports
        (p.zoneCount ≤ z.val → t.guard z = g ∧ asks = []) ∧
        (z.val < p.zoneCount → p.frameLen ≤ g.fed →
          (g.state ≠ .fallback → t.guard z = { g with state := .live, miss := 0, fed := 0 } ∧ asks = []) ∧
          (g.state = .fallback → t.guard z = { g with state := .live, miss := 0, fed := 0, fade := 7 } ∧
            asks = [⟨.zoneState, z.val, 1, word g.fade⟩])) ∧
        (z.val < p.zoneCount → g.fed < p.frameLen →
          (g.state = .dormant → t.guard z = { g with miss := 0, fed := 0 } ∧ asks = []) ∧
          (active → e.watchFrames = 0 → t.guard z = { g with fed := 0 } ∧ asks = []) ∧
          (active → g.miss + 1 < e.watchFrames →
            t.guard z = { g with state := .lapsing, miss := g.miss + 1, fed := 0 } ∧ asks = []) ∧
          (active → e.watchFrames ≠ 0 → e.watchFrames ≤ g.miss + 1 →
            t.guard z = { g with state := .fallback, miss := e.watchFrames, fade := 7, fed := 0 } ∧
            asks = [⟨.zoneState, z.val, 3, word e.mode.code⟩]) ∧
          (g.state = .fallback → e.mode = .mute → t.guard z = { g with fed := 0 } ∧ asks = []) ∧
          (g.state = .fallback → e.mode = .fade → t.guard z = { g with fade := g.fade - 1, fed := 0 } ∧ asks = [])) ∧
        ((t.guard z).state ≠ g.state → Marked t (54 + z.val))

/-- R66, R70, R83: the effective safety entries, and what a change of them makes of a guard record. -/
def Obligations.SafetyEntries : Prop :=
  (∀ (t : SafetyStore) (z : Fin 48),
    (t.entrySum.toNat = ((List.finRange 192).map fun i => (t.words[i.val]).toNat).sum % 4294967296 ∧
      t.checksum = t.words[192]) ∧
    (t.cond = .invalid → t.effective z = ⟨1048575, 2, .mute, true⟩) ∧
    (t.cond ≠ .invalid →
      (t.effective z).ceiling = min 8388607 (t.words[4 * z.val]).toNat ∧
      (t.effective z).watchFrames = min 8 (t.words[4 * z.val + 1]).toNat ∧
      ((t.effective z).mode = .fade ↔ (t.words[4 * z.val + 2]) = 1) ∧
      ((t.effective z).yieldFlag = true ↔ (t.words[4 * z.val + 3]) ≠ 0))) ∧
  (∀ (g : GuardRec) (old new : Entries) (level : Bool),
    let t := g.entriesChanged old new level
    let W := new.watchFrames
    let cut := if W = 0 then 0 else W - 1
    (old.watchFrames = W → t.miss = g.miss ∧ t.state = g.state) ∧
    (old.watchFrames ≠ W →
      (g.state = .fallback → t.miss = W ∧ t.state = .fallback) ∧
      (g.state ≠ .fallback → g.miss < W → t.miss = g.miss ∧ t.state = g.state) ∧
      (g.state ≠ .fallback → W ≤ g.miss → t.miss = cut ∧
        t.state = if g.state = .lapsing ∧ cut = 0 then .live else g.state)) ∧
    (t.fade = if g.state = .fallback ∧ old.mode = .mute ∧ new.mode = .fade then 0 else g.fade) ∧
    (t.yielding = if level = true ∧ old.yieldFlag ≠ new.yieldFlag then new.yieldFlag else g.yielding) ∧
    (t.muted = g.muted ∧ t.proof = g.proof ∧ t.fed = g.fed ∧ t.lastHalf = g.lastHalf ∧
      t.ceilingCount = g.ceilingCount))

/-- R79 to R82: an edge of YIELD between two words: the level, the zones' flags, word 21 and the YIELD report. -/
def Obligations.YieldEdgeTaken : Prop :=
  (∀ (s : State) (z : Nat), s.zoneInUse z = true ↔ ∃ p, s.loader.live = some p ∧ z < p.zoneCount) ∧
  ∀ (s : State) (level : Bool), s.betweenWords → s.yieldLevel ≠ level →
    ∃ t, exec (if level then .yieldAssertion else .yieldDeassertion) s = .next t ∧
      t.yieldLevel = level ∧ Marked t 21 ∧
      KeepsAllBut (.yieldLevel :: .guards :: reportParts) s t ∧
      (∀ z : Fin 48,
        (s.zoneInUse z.val = false → t.guard z = s.guard z) ∧
        (s.zoneInUse z.val = true → level = true → t.guard z = { s.guard z with
          yielding := (s.guard z).yielding || (s.store.effective z).yieldFlag, proof := false }) ∧
        (s.zoneInUse z.val = true → level = false → t.guard z = { s.guard z with yielding := false }) ∧
        (t.guard z ≠ s.guard z → Marked t (54 + z.val))) ∧
      (s.command.device = .starting →
        t.writer.queue = s.writer.queue ∧ t.writer.dropped = s.writer.dropped ∧ t.writer.total = s.writer.total) ∧
      (s.command.device ≠ .starting →
        Reported s t .yieldChange 0 (if level then 1 else 0)
          (word ((List.finRange 48).filter fun z => s.zoneInUse z.val && (t.guard z).yielding).length))

/-! ### The memory path (chapter 5) -/

/-- R87, R89, R90, R93 (assumption log 1): a row that stands for an upstream word does what that word does; past start-up a
word that passes plain goes to memory unchanged; during STARTING every word does, and no block, AW included, sees it. -/
def Obligations.PlainWords : Prop :=
  (∀ (s : State) (c : Instr) (w : UpWord), presents c s = some w →
    exec c s = exec (.plainWord w.master w.addr w.dir) s) ∧
  (∀ (s : State) (m : Master) (a : Addr) (d : Dir),
    let w : UpWord := ⟨m, a, d⟩
    (s.takes w → s.passesPlain w →
      ∃ t, exec (.plainWord m a d) s = .next t ∧ WaitsFor s t w [plainAccess w] (plainForm w) []) ∧
    (s.betweenWords → s.command.device = .starting →
      exec (.plainWord m a d) s =
        .next (s.setPath { s.path with inHand := some ⟨w, (plainForm w), [plainAccess w], [], []⟩ })))

/-- R86, R88, R101: what comes while a word is in hand waits for its end, in order: words, the part's slow events, and
the ends of own accesses, whose data is in memory and whose port is free; a word that comes while a reset lasts is not
taken. That they wait in the part is the model's reading (assumption log 4 to 6). -/
def Obligations.WordInHandHoldsBackTheRest : Prop :=
  ∀ (s : State) (m : Master) (a : Addr) (d : Dir),
    (s.path.resetHeld = true → exec (.plainWord m a d) s = .next s) ∧
    (s.path.resetHeld = false → s.path.inHand ≠ none →
      exec (.plainWord m a d) s = .next (s.setPath { s.path with waiting := s.path.waiting ++ [⟨m, a, d⟩] }) ∧
      ∀ (c : Instr) (e : SlowEvent),
        (c, e) ∈ [(Instr.startUpCheck, SlowEvent.startUpCheck), (.endOfChecks, .endOfChecks),
          (.entryProgrammingCompletion, .entryProgrammed), (.checksumProgrammingCompletion, .checksumProgrammed),
          (.yieldAssertion, .yieldEdge true), (.yieldDeassertion, .yieldEdge false)] →
        exec c s = .next (s.setPath { s.path with held := s.path.held ++ [e] })) ∧
    (s.path.inHand ≠ none →
      (∀ off, s.path.port = some (.own (.planRead off)) →
        exec .planReadComplete s = .next (s.setPath { s.path with
          port := none, held := s.path.held ++ [.planWordRead (s.memRead (planAddr s.path.straps off))] })) ∧
      ∀ (c : Instr) (x : OwnAccess) (v : Word), s.path.port = some (.own x) → x.data = some v →
        ((c = .answerWriteComplete ∧ x = .answerWrite v) ∨ (c = .headWriteComplete ∧ ∃ i, x = .headWrite i) ∨
          (c = .statusWriteComplete ∧ ∃ off, x = .statusWrite off v) ∨
          (c = .imageWriteComplete ∧ ∃ i, x = .imageWrite i v)) →
        exec c s = .next ((s.memWrite (planAddr s.path.straps x.offset) v).setPath { s.path with
          port := none, held := s.path.held ++ [.ownWritten x] }))

/-- R39, R64, R90, R91: the plan area lies at the strap value times 1,048,576; the straps are sampled as a reset ends and
held until the next; past start-up the other regions are those of the live plan. -/
def Obligations.PlanAreaPlacedByStraps : Prop :=
  (∀ (straps : BitVec 6) (a : Addr) (off : Nat),
    planOffset straps a = some off ↔ a.toNat = straps.toNat * 1048576 + off ∧ off ≤ 4095) ∧
  (∀ (straps : BitVec 6) (off : Nat), off ≤ 4095 →
    (planAddr straps off).toNat = straps.toNat * 1048576 + off) ∧
  ((planAddr 63 0).toNat = 66060288 ∧ (planAddr 63 4095).toNat = 66064383) ∧
  (∀ (s t : State) (c : Instr), exec c s = .next t →
    t.path.straps = s.path.straps ∨ (s.path.resetHeld = true ∧ ∃ y, c = .resetEnd t.path.straps y)) ∧
  (∀ (s : State) (straps : BitVec 6) (y : Bool), s.path.resetHeld = true →
    ∃ t, exec (.resetEnd straps y) s = .next t ∧ t.path.straps = straps) ∧
  (∀ (s : State) (a : Addr),
    (∀ off, s.region a = .planArea off ↔ planOffset s.path.straps a = some off) ∧
    (s.loader.live = none → planOffset s.path.straps a = none → s.region a = .noRegion)) ∧
  (∀ (s : State) (p : Plan) (a : Addr), s.planned p →
    (∀ (z : Fin 48) (j : Nat), s.region a = .aperture z j ↔
      z.val < p.zoneCount ∧ j < p.frameLen ∧ a.toNat = p.tapBase + p.frameLen * z.val + j) ∧
    (∀ (z : Fin 48) (half : Fin 2) (j : Nat), s.region a = .zoneBuffer z half j ↔
      z.val < p.zoneCount ∧ j < p.frameLen ∧
        a.toNat = p.zoneBase + 2 * p.frameLen * z.val + p.frameLen * half.val + j) ∧
    (∀ (l : Fin 24) (o : Nat), s.region a = .lineMemory l o ↔
      l.val < p.lineCount ∧ o < p.lineLen l.val ∧ a.toNat = p.lineBase l.val + o))

/-- R94: a write by any master to a word that is the part's own is dropped, and each word is reported. -/
def Obligations.ProtectedWriteDropped : Prop :=
  ∀ (s : State) (m : Master) (off : BitVec 12) (v : Word),
    let w : UpWord := ⟨m, planAddr s.path.straps off.toNat, .write v⟩
    s.takes w →
    (off.toNat = 1 ∨ off.toNat = 6 ∨ off.toNat = 7 ∨ (16 ≤ off.toNat ∧ off.toNat ≤ 117) ∨
      (256 ≤ off.toNat ∧ off.toNat ≤ 511)) →
    ∃ t, exec (.protectedWrite m off v) s = .next t ∧
      Reported (s.looked w) t .foreignWrite 255 (addrWord w.addr) (word (masterCode m)) ∧
      Dropped s t w reportParts

/-- R95, R97: a grant of the port. That one nobody waits for changes nothing is the model's choice (assumption log 3), and so
is that detail and ring writes complete in their grant (7). -/
def Obligations.PortGrantArbitrates : Prop :=
  (∀ p : MemPath,
    (upstreamWaits p = true ↔ ∃ h, p.inHand = some h ∧ h.accesses ≠ []) ∧
    (ownWaits p = true ↔ ∃ c, p.issued c ≠ [])) ∧
  (Client.pl.rotation = [.pl, .cu, .rw, .ss] ∧ Client.cu.rotation = [.cu, .rw, .ss, .pl] ∧
    Client.rw.rotation = [.rw, .ss, .pl, .cu] ∧ Client.ss.rotation = [.ss, .pl, .cu, .rw] ∧
    ∀ c : Client, c.rotation = [c, c.next, c.next.next, c.next.next.next]) ∧
  (∀ x : OwnAccess, x.offset = match x with
    | .planRead off => off
    | .detailWrite n _ => 6 + n.val
    | .answerWrite _ => 1
    | .entryWrite i k _ => 256 + 4 * i.toNat + k.val
    | .headWrite _ => 18
    | .statusWrite off _ => off
    | .imageWrite i _ => 512 + i.val) ∧
  (∀ x : OwnAccess,
    (hasCompletion x = false ↔ (∃ n v, x = .detailWrite n v) ∨ ∃ i k v, x = .entryWrite i k v) ∧
    x.data = match x with
    | .planRead _ => none
    | .detailWrite _ v => some v
    | .answerWrite v => some v
    | .entryWrite _ _ v => some v
    | .headWrite i => some (word i.toNat)
    | .statusWrite _ v => some v
    | .imageWrite _ v => some v) ∧
  (∀ (p : MemPath) (c : Client) (l : List OwnAccess),
    (p.issued c = match c with
      | .pl => p.ownPL
      | .cu => p.ownCU
      | .rw => p.ownRW
      | .ss => p.ownSS) ∧
    p.setIssued c l = match c with
      | .pl => { p with ownPL := l }
      | .cu => { p with ownCU := l }
      | .rw => { p with ownRW := l }
      | .ss => { p with ownSS := l }) ∧
  ∀ (s : State),
    (s.path.port ≠ none → exec .portGrant s = .next s) ∧
    (s.path.port = none → upstreamWaits s.path = false → ownWaits s.path = false → exec .portGrant s = .next s) ∧
    (∀ h x rest, s.path.port = none → s.path.inHand = some h → h.accesses = x :: rest →
      (ownWaits s.path = true → s.path.count < 8) →
      exec .portGrant s = .next (s.setPath { s.path with
        port := some (.upstream x), inHand := some { h with accesses := rest }
        count := if ownWaits s.path then s.path.count + 1 else 0 })) ∧
    (∀ c x rest, s.path.port = none → (upstreamWaits s.path = true → 8 ≤ s.path.count) →
      s.path.pointer.rotation.find? (fun k => !(s.path.issued k).isEmpty) = some c → s.path.issued c = x :: rest →
      let served : MemPath := { s.path.setIssued c rest with pointer := c.next, count := 0 }
      (hasCompletion x = true → exec .portGrant s = .next (s.setPath { served with port := some (.own x) })) ∧
      (∀ v, hasCompletion x = false → x.data = some v →
        exec .portGrant s = .next ((s.setPath served).memWrite (planAddr s.path.straps x.offset) v)))

/-- R87, R88, R146, R152: an access of the word in hand completes: memory, the next access, and after the last the word's
answer, its saturation and what the watch units that matched it take of it; then what waited for the word's end is taken
in order, the events first, then the words until one is in hand again (assumption log 4, 5). -/
def Obligations.UpstreamAccessCompletes : Prop :=
  ∀ (s : State) (h : InHand) (x : Access), s.mem.wf → s.path.port = some (.upstream x) → s.path.inHand = some h →
    let returned := h.returned ++ match x with
      | .read a => [s.memRead a]
      | .write _ _ => []
    ∃ t, exec .upstreamAccessComplete s = .next t ∧ t.path.port = none ∧
      (∀ b, t.memRead b = match x with
        | .read _ => s.memRead b
        | .write a v => if b = a then v else s.memRead b) ∧
      (h.accesses ≠ [] →
        t.path.inHand = some { h with returned := returned } ∧ KeepsAllBut [.port, .inHand, .mem] s t) ∧
      (h.accesses = [] → ∃ ended, t = afterWord ended ∧
        ended.path.inHand = none ∧ ended.path.lastDone = some ⟨h.word, formAnswer h.form returned⟩ ∧
        (∀ z : Fin 48, ended.tap z =
          if saturatedZone h.form returned = some z then
            { s.tap z with saturations := min 65535 ((s.tap z).saturations + 1) }
          else s.tap z) ∧
        (∀ u : Fin 4, ended.unit u =
          if u ∈ h.watchers then
            { s.unit u with firstHit := (s.unit u).firstHit.map fun r =>
              { r with data := r.data.or (formAnswer h.form returned) } }
          else s.unit u) ∧
        (∀ u ∈ h.watchers, ∀ n : Fin 4, Marked ended (102 + 4 * u.val + n.val)) ∧
        KeepsAllBut ([.port, .inHand, .mem, .lastDone, .taps] ++
          if h.watchers = [] then [] else .watch :: statusParts) s ended) ∧
      (∀ u : State,
        (u.path.held = [] → u.path.waiting = [] → afterWord u = u) ∧
        (∀ e rest, u.path.held = e :: rest →
          afterWord u = afterWord (takeEvent e (u.setPath { u.path with held := rest }))) ∧
        (∀ w rest, u.path.held = [] → u.path.waiting = w :: rest →
          let taken := takeWord w (u.setPath { u.path with waiting := rest })
          afterWord u = if taken.path.inHand = none then afterWord taken else taken)) ∧
      (∀ w rest, h.accesses = [] → h.watchers = [] → s.path.held = [] → s.path.waiting = w :: rest →
        s.command.device ≠ .starting → s.unwatched w → s.passesPlain w →
        t.path.waiting = rest ∧ t.path.inHand = some ⟨w, (plainForm w), [plainAccess w], [], []⟩) ∧
      (∀ level, h.accesses = [] → s.path.held = [.yieldEdge level] → s.path.waiting = [] →
        t.yieldLevel = level ∧ t.path.held = [])

/-- R47, R49, R56, R75, R76: the answers formed from the words memory returned. -/
def Obligations.AnswersFormedFromMemory : Prop :=
  (∀ c x : Int, 0 ≤ c → clampTo c x = min c (max (-c) x)) ∧
  ((∀ x, ofSample x = BitVec.ofInt 32 x) ∧ voidCode = BitVec.ofInt 32 (-8388608)) ∧
  (∀ v : Word, legalSample v = min 8388607 (max (-8388607) v.toInt)) ∧
  (∀ v, formAnswer .plain [v] = some v) ∧
  (∀ vs, formAnswer .store vs = none ∧
    ∀ f, f = .plain ∨ f = .store ∨ f = .checked ∨ (∃ level, f = .faded level) → saturatedZone f vs = none) ∧
  (∀ v, formAnswer .checked [v] = some (BitVec.ofInt 32 (clampTo 8388607 v.toInt))) ∧
  (∀ level v, formAnswer (.faded level) [v] =
    some (BitVec.ofInt 32 (Int.tdiv (clampTo 8388607 v.toInt * level) 8))) ∧
  (∀ z (trim : Nat) v, let y := Int.fdiv (clampTo 8388607 v.toInt * trim) 1024
    formAnswer (.steady z trim) [v] = some (BitVec.ofInt 32 (clampTo 8388607 y)) ∧
    (saturatedZone (.steady z trim) [v] = if y < -8388607 ∨ 8388607 < y then some z else none)) ∧
  (∀ z (weight trim : Nat) va vb,
    let mixed := Int.fdiv (clampTo 8388607 va.toInt * (256 - weight) + clampTo 8388607 vb.toInt * weight) 256
    let y := Int.fdiv (mixed * trim) 1024
    formAnswer (.blend z weight trim) [va, vb] = some (BitVec.ofInt 32 (clampTo 8388607 y)) ∧
    (saturatedZone (.blend z weight trim) [va, vb] = if y < -8388607 ∨ 8388607 < y then some z else none)) ∧
  (∀ F g k j : Nat, j < F → k < g → blendWeight F g k j ≤ 255 ∧ blendWeight F g 0 0 = 0)

/-- R56: a tap read's answer is trimmed, and a saturation counted, as its last access completes. -/
def Obligations.TapAnswersTrimmed : Prop :=
  ∀ (s : State) (h : InHand) (a : Addr) (z : Fin 48) (trim : Nat) (y : Int),
    s.path.port = some (.upstream (.read a)) → s.path.inHand = some h → h.accesses = [] → s.path.held = [] →
    s.path.waiting = [] → (s.tap z).trim = trim →
    ((h.form = .steady z trim ∧ h.returned = [] ∧ y = legalSample (s.memRead a)) ∨
      (∃ w v, h.form = .blend z w trim ∧ w ≤ 256 ∧ h.returned = [v] ∧
        y = blend w (legalSample v) (legalSample (s.memRead a)))) →
    ∃ t x, exec .upstreamAccessComplete s = .next t ∧ t.path.lastDone = some ⟨h.word, some x⟩ ∧
      x.toInt = min 8388607 (max (-8388607) (Int.fdiv (y * trim) 1024)) ∧ x ≠ voidCode ∧
      (t.tap z).saturations =
        (if 8388607 < Int.fdiv (y * trim) 1024 ∨ Int.fdiv (y * trim) 1024 < -8388607 then
          min 65535 ((s.tap z).saturations + 1) else (s.tap z).saturations) ∧
      (trim = 1024 → x.toInt = y ∧ (t.tap z).saturations = (s.tap z).saturations) ∧
      (trim < 1024 → (t.tap z).saturations = (s.tap z).saturations) ∧
      (trim = 0 → x = 0) ∧ (trim = 1023 → y = -1 → x.toInt = -1)

/-! ### The plan (chapter 6) -/

/-- R104: the header words are checked in order, and the first that fails is the offending word of the plan; the checks
of the tables come after them. -/
def Obligations.HeaderCheckedFirst : Prop :=
  ∀ (p : Plan),
    let F := p.word 1025
    let okF := F = 16 ∨ F = 32 ∨ F = 64 ∨ F = 128 ∨ F = 256
    let okL := 1 ≤ (p.word 1026).toNat ∧ (p.word 1026).toNat ≤ 24
    let okA := 1 ≤ (p.word 1027).toNat ∧ (p.word 1027).toNat ≤ 8
    let okZ := 1 ≤ (p.word 1028).toNat ∧ (p.word 1028).toNat ≤ 48
    let zones := (p.word 1028).toNat
    let okTap := (p.word 1029).toNat + zones * F.toNat - 1 ≤ 67108863
    let okZone := (p.word 1030).toNat + zones * (2 * F.toNat) - 1 ≤ 67108863
    (¬ okF → fieldFailure p = some 1025) ∧
    (okF → ¬ okL → fieldFailure p = some 1026) ∧
    (okF → okL → ¬ okA → fieldFailure p = some 1027) ∧
    (okF → okL → okA → ¬ okZ → fieldFailure p = some 1028) ∧
    (okF → okL → okA → okZ → ¬ okTap → fieldFailure p = some 1029) ∧
    (okF → okL → okA → okZ → okTap → ¬ okZone → fieldFailure p = some 1030) ∧
    (okF → okL → okA → okZ → okTap → okZone → ∀ o, fieldFailure p = some o → 1031 ≤ o)

/-- R103 to R109, R113: what a plan that passes every check is known to be, and which word of one that fails is named:
the lowest offending offset, the placing word of the first region that overlaps, the first layout word that differs. The
fields stand where 6.1 puts them (`PlanFields`). -/
def Obligations.CheckedPlansAreSound : Prop :=
  (∀ (p : Plan), PlanFields p ∧
    p.regions = [⟨1029, p.num 1029, p.num 1028 * p.num 1025⟩, ⟨1030, p.num 1030, p.num 1028 * (2 * p.num 1025)⟩] ++
      (List.range (p.num 1026)).map (fun i => ⟨1031 + 6 * i, p.num (1031 + 6 * i), p.num (1032 + 6 * i)⟩) ∧
    (∀ o, fieldFailure p = some o ↔ p.offends o ∧ ∀ k, k < o → ¬ p.offends k) ∧
    (fieldFailure p = none ↔ ∀ o, ¬ p.offends o)) ∧
  (∀ (straps : BitVec 6) (p : Plan) (o : Nat), fieldFailure p = none →
    (regionFailure straps p = some o ↔
      ∃ k r, p.regions[k]? = some r ∧ r.placedBy = o ∧ p.overlapsAt straps k ∧ ∀ j, j < k → ¬ p.overlapsAt straps j)) ∧
  ∀ (straps : BitVec 6) (p : Plan), planResult straps none p = .pass →
    (∀ q o, layoutFailure q p = some o ↔
      p.laysOut o ∧ p.word o ≠ q.word o ∧ ∀ k, p.laysOut k → k < o → p.word k = q.word k) ∧
    (∀ i, i < p.lineCount →
      (∃ e, 10 ≤ e ∧ e ≤ 16 ∧ p.lineLen i = 2 ^ e) ∧
      p.lineBase i + p.lineLen i ≤ 67108864 ∧ p.lineBase i % p.lineLen i = 0 ∧ p.lineWriter i ≤ 3 ∧
      (p.lineRole i = 1 ∨ p.lineRole i = 2) ∧ p.jumpThreshold i ≤ 8388607 ∧
      1 ≤ p.recoverFrames i ∧ p.recoverFrames i ≤ 255) ∧
    (∀ a, a < p.areaCount →
      p.candCount a ≤ 8 ∧ 1 ≤ p.glideFrames a ∧ p.glideFrames a ≤ 64 ∧
      p.threshold a ≤ 8388607 ∧ p.margin a ≤ 8388607 ∧ p.dwellFrames a ≤ 255 ∧ p.releaseFrames a ≤ 255 ∧
      1 ≤ p.decayShift a ∧ p.decayShift a ≤ 8 ∧ p.num (1175 + 14 * a + 13) < 65536 ∧
      (∀ i, i < p.candCount a → p.candLine a i < p.lineCount ∧ p.lineRole (p.candLine a i) = 1) ∧
      (∀ i k, i < p.candCount a → k < i → p.candLine a k ≠ p.candLine a i)) ∧
    (∀ z, z < p.zoneCount →
      p.programLine z < p.lineCount ∧ p.lineRole (p.programLine z) = 2 ∧ p.zoneArea z < p.areaCount ∧
      p.trim z ≤ 4095 ∧ p.restDelay z + 2 * p.frameLen ≤ p.lineLen (p.programLine z) ∧
      (∀ i, i < p.candCount (p.zoneArea z) → p.rowEntry z i + 2 * p.frameLen ≤ p.lineLen (p.programLine z))) ∧
    (∀ r ∈ p.regions, r.base + r.length ≤ planBase straps ∨ planBase straps + 4096 ≤ r.base) ∧
    p.regions.Pairwise (fun r q => r.base + r.length ≤ q.base ∨ q.base + q.length ≤ r.base) ∧
    (∀ q, planResult straps (some q) p = .pass ↔ ∀ o, p.laysOut o → p.word o = q.word o)

/-- R111, R119: an own read of PL completes: the word joins the load and the next read is issued, or the reading ends;
a stale word is discarded. That a read of no load and not stale, which does not occur, changes nothing is the model's
choice (assumption log 3). -/
def Obligations.PlanReadCompletes : Prop :=
  ∀ (s : State) (off : Nat), s.path.inHand = none → s.path.port = some (.own (.planRead off)) →
    let v := s.memRead (planAddr s.path.straps off)
    let l := s.loader
    ∃ t, exec .planReadComplete s = .next t ∧ t.path.port = none ∧
      (l.staleRead = true → l.state = .reading →
        t.loader = { l with staleRead := false, readInFlight := true } ∧
        t.path.ownPL = s.path.ownPL ++ [.planRead l.cursor] ∧
        KeepsAllBut [.port, .staleRead, .readInFlight, .ownPL] s t) ∧
      (l.staleRead = true → l.state ≠ .reading →
        t.loader = { l with staleRead := false } ∧ KeepsAllBut [.port, .staleRead] s t) ∧
      (l.staleRead = false → l.state = .reading → l.readInFlight = true →
        t.loader.loadWords = l.loadWords ++ [v] ∧ t.loader.cursor = l.cursor + 1 ∧
        t.loader.sum = (if 1025 ≤ l.cursor then l.sum + v else l.sum) ∧
        (l.cursor < 1862 → t.loader.state = .reading ∧ t.loader.readInFlight = true ∧
          t.path.ownPL = s.path.ownPL ++ [.planRead (l.cursor + 1)] ∧
          KeepsAllBut [.port, .loadWords, .sum, .cursor, .ownPL] s t) ∧
        (1862 ≤ l.cursor → t.loader.state = .checking ∧ t.loader.readInFlight = false ∧ Marked t 17 ∧
          KeepsAllBut ([.port, .loadWords, .sum, .cursor, .readInFlight, .loadState] ++ statusParts) s t)) ∧
      (l.staleRead = false → l.state ≠ .reading → KeepsAllBut [.port] s t)

/-- R113, R114: a load whose checks fail is refused for the first check that fails, and nothing else changes. That the
torn record becomes absent with the refusal is read from the tables of 6.3 (assumption log 19). -/
def Obligations.FailedChecksRejectTheLoad : Prop :=
  ∀ (s : State), s.betweenWords → s.loader.state = .checking →
    let words : Plan := s.loader.loadWords
    let rejected (why : LoadOutcome) (a b : Word) : Prop :=
      ∃ t, exec .endOfChecks s = .next t ∧
        t.loader = { s.loader with state := .idle, loadWords := [], torn := none, outcome := why } ∧
        Reported s t .planRejected (loadOutcomeCode why) a b ∧ Marked t 17 ∧
        KeepsAllBut ([.loadState, .loadWords, .torn, .outcome] ++ reportParts) s t
    (∀ o c, s.loader.torn = some (o, c) → rejected .torn (word o) (word c)) ∧
    (s.loader.torn = none → s.loader.sum ≠ words.planSum → rejected .checksum s.loader.sum words.planSum) ∧
    (s.loader.torn = none → s.loader.sum = words.planSum →
      (∀ o, fieldFailure words = some o → rejected .invalid (word o) (words.word o)) ∧
      (fieldFailure words = none →
        (∀ o, regionFailure s.path.straps words = some o → rejected .invalid (word o) (words.word o)) ∧
        (∀ live o, regionFailure s.path.straps words = none → s.loader.live = some live →
          layoutFailure live words = some o → rejected .layout (word o) (live.word o))))

/-- R115, R116: a load that passes every check is installed where no plan is live, and waits for its swap where one
is. That the load words are emptied as they become the standby plan is the model's choice (assumption log 32). -/
def Obligations.PassedChecksInstallOrWait : Prop :=
  ∀ (s : State), s.betweenWords → s.loader.state = .checking → s.loader.torn = none →
    let p : Plan := s.loader.loadWords
    s.loader.sum = p.planSum → planResult s.path.straps s.loader.live p = .pass →
    ∃ t, exec .endOfChecks s = .next t ∧ Marked t 17 ∧
      (s.loader.live = none →
        t.loader = { s.loader with state := .idle, loadWords := [], live := some p, outcome := .loaded } ∧
        t.command = { s.command with device := .ready } ∧
        Reported s t .planLoaded 0 p.planSum 1 ∧
        (∀ l, t.line l = LineRec.start) ∧ (∀ a, t.area a = AreaRec.fresh) ∧
        (∀ z : Fin 48, z.val < p.zoneCount →
          t.tap z = ⟨.steady (p.restDelay z.val), none, p.trim z.val, 0, false, false⟩ ∧
          t.guard z = ⟨.dormant, false, s.yieldLevel && (s.store.effective z).yieldFlag, false, 0, 0, 7, 0, 0⟩ ∧
          Marked t (54 + z.val)) ∧
        (∀ l : Fin 24, l.val < p.lineCount → Marked t (30 + l.val)) ∧
        (∀ a : Fin 8, a.val < p.areaCount → Marked t (22 + a.val)) ∧ Marked t 16 ∧
        KeepsAllBut ([.loadState, .loadWords, .live, .outcome, .device, .lines, .areas, .taps, .guards] ++
          reportParts) s t) ∧
      (s.loader.live ≠ none →
        t.loader = { s.loader with state := .waitingSwap, loadWords := [], standby := some p, outcome := .loaded } ∧
        Reported s t .planLoaded 0 p.planSum 0 ∧
        KeepsAllBut ([.loadState, .loadWords, .standby, .outcome] ++ reportParts) s t)

/-- R36, R61, R62, R117, R118: the frame mark at which a standby plan becomes live. Where no area collects anything
before it (kept by `AlignmentStaysSound`) its areas are decided under the old plan, and zones of areas left without a
source keep what TE's own work left them. One PLAN_SWAPPED is asked for, after the mark's other reports. -/
def Obligations.FrameMarkSwapsThePlans : Prop :=
  ∀ (s : State) (p q : Plan) (stamp : Word) (c : Instr), c ∈ frameMarkRows stamp →
    s.takes (s.coreWord 8 stamp) → s.planned p → s.loader.state = .waitingSwap → s.loader.standby = some q →
    planResult s.path.straps (some p) q = .pass →
    ∃ t reports swap, exec c s = .next t ∧ MarkAsks p stamp s t (reports ++ [swap]) ∧
      t.loader = { s.loader with state := .idle, live := some q, standby := none, outcome := .swapped } ∧
      t.command = { s.command with lastStamp := stamp } ∧ Marked t 17 ∧
      swap = ⟨.planSwapped, 0, q.planSum, word ((List.finRange 48).filter fun z =>
        decide (z.val < q.zoneCount) && (t.area (areaNo (q.zoneArea z.val))).elected.isSome).length⟩ ∧
      (∀ r ∈ reports, r.kind ≠ .planSwapped) ∧
      (∀ a i : Fin 8, a.val < q.areaCount → i.val < q.candCount a.val →
        q.candLine a.val i.val ≠ p.candLine a.val i.val → (t.area a).level i = 0) ∧
      (∀ a : Fin 8, (s.area a).collectsNothing → DecidedAtMark p a (swapRenews p q a) s t reports) ∧
      (∀ z : Fin 48, q.zoneCount ≤ z.val → t.tap z = s.tap z) ∧
      (∀ z : Fin 48, z.val < q.zoneCount →
        let own := tapAfterMark (s.tap z) (p.glideFrames (p.zoneArea z.val))
        (t.tap z).trim = q.trim z.val ∧ (t.tap z).glide = own.glide ∧ (t.tap z).saturations = (s.tap z).saturations ∧
        (∀ a : Fin 8, a.val = q.zoneArea z.val →
          (∀ i, (t.area a).elected = some i →
            t.tap z = { own with
              trim := q.trim z.val, pendingTarget := pendingAfter own.glide (q.rowEntry z.val i.val) }) ∧
          ((s.area a).collectsNothing → (t.area a).elected = none → t.tap z = { own with trim := q.trim z.val })) ∧
        ((t.tap z).glide.isGliding ≠ (s.tap z).glide.isGliding ∨
            (t.tap z).pendingTarget.isSome ≠ (s.tap z).pendingTarget.isSome → Marked t (54 + z.val)))

/-! ### Commands (chapter 7) -/

/-- R129, 7.4, R149: the outcome of a post by its code, the device state, its operands and its own condition. -/
def Obligations.PostOutcomes : Prop :=
  ∀ (s : State) (o : Vector Word 4), s.command.device ≠ .starting →
    let d := s.command.device
    (∀ code, (code = 0 ∨ 12 ≤ code) → postOutcome s code o = .unknown) ∧
    (postOutcome s 1 o = if s.loader.state = .idle then .done else .badState) ∧
    (∀ code, code = 2 ∨ code = 3 → postOutcome s code o = if d = .ready then .done else .badState) ∧
    (postOutcome s 4 o = if d = .service then .done else .badState) ∧
    (d ≠ .service → ∀ code, code = 5 ∨ code = 6 → postOutcome s code o = .badState) ∧
    (d = .cold → ∀ code, code = 7 ∨ code = 8 ∨ code = 9 ∨ code = 11 → postOutcome s code o = .badState) ∧
    (∀ p, s.loader.live = some p → d ≠ .cold →
      (d = .service →
        postOutcome s 5 o = (if o[0].toNat < p.areaCount ∧ o[1].toNat < p.candCount o[0].toNat then .done
          else .badOperand) ∧
        postOutcome s 6 o = if o[0].toNat < p.areaCount then .done else .badOperand) ∧
      postOutcome s 7 o = (if (o[0].toNat < p.zoneCount ∨ o[0] = 255) ∧ (o[1] = 0 ∨ o[1] = 1) then .done
        else .badOperand) ∧
      postOutcome s 8 o = (if o[0].toNat < p.zoneCount ∧ (o[1] = 0 ∨ o[1] = 1) then
        (if o[1] = 1 ∧ s.yieldLevel = true then .badState else .done) else .badOperand) ∧
      postOutcome s 9 o = (if o[0].toNat < p.lineCount ∨ o[0] = 255 then .done else .badOperand) ∧
      postOutcome s 11 o = if o[0].toNat < p.zoneCount then .done else .badOperand) ∧
    (let unit := o[0].toNat % 256
     let operation := o[0].toNat / 256 % 256
     let kinds := o[3].toNat / 2 % 4
     let masters := o[3].toNat / 16 % 16
     let fences := o[3].toNat / 4096 % 2 = 1
     let post := s.path.straps.toNat * 1048576
     let windowOk := o[1].toNat ≤ 67108863 ∧ 1 ≤ o[2].toNat ∧ o[2].toNat ≤ 65536 ∧
       o[1].toNat + o[2].toNat - 1 ≤ 67108863
     let locksPosts := fences ∧ masters % 2 = 1 ∧ (kinds = 2 ∨ kinds = 3) ∧
       o[1].toNat ≤ post ∧ post < o[1].toNat + o[2].toNat
     (unit ≤ 3 → operation = 1 → windowOk → kinds ≠ 0 → masters ≠ 0 → ¬ locksPosts → postOutcome s 10 o = .done) ∧
     (unit ≤ 3 → (operation = 2 ∨ operation = 3) → postOutcome s 10 o = .done) ∧
     ((3 < unit ∨ operation = 0 ∨ 3 < operation ∨
       (operation = 1 ∧ (¬ windowOk ∨ kinds = 0 ∨ masters = 0 ∨ locksPosts))) → postOutcome s 10 o = .badOperand))

/-- R128 to R131: a post whose outcome is not DONE is taken and answered, and changes the state of no block; a post presented
while CU is ANSWERING is refused and reported, and still reaches memory; when the answer write completes the answer is in
memory and a post is taken again. The answer word holds the tag and the outcome's code, and 0 above (11.2). -/
def Obligations.CommandSlot : Prop :=
  (∀ (s : State) (code tag : BitVec 8) (unused : BitVec 16) (x : Answer) (c : Instr),
    c ∈ postRows code tag unused → s.takesPost code.toNat tag unused →
    postOutcome s code.toNat s.command.shadow = x → x ≠ .done →
    ∃ t, exec c s = .next t ∧ Posted s t code.toNat tag unused x [] []) ∧
  (∀ (s : State) (code tag last : BitVec 8) (unused : BitVec 16) (c : Instr),
    c ∈ postRows code tag unused → s.takes (s.postOf code.toNat tag unused) → s.command.slot = .answering →
    s.command.lastTag = some last →
    ∃ t, exec c s = .next t ∧
      Reported (s.looked (s.postOf code.toNat tag unused)) t .commandRefused tag.toNat (word code.toNat)
        (word last.toNat) ∧
      Stores s t (s.postOf code.toNat tag unused) (postWord code.toNat tag unused) reportParts) ∧
  (∀ (s : State) (v : Word), s.mem.wf → s.path.inHand = none → s.path.port = some (.own (.answerWrite v)) →
    ∃ t, exec .answerWriteComplete s = .next t ∧ t.command.slot = .idle ∧ t.path.port = none ∧
      (∀ b, t.memRead b = if b = planAddr s.path.straps 1 then v else s.memRead b) ∧
      KeepsAllBut [.slot, .port, .mem] s t) ∧
  (∀ (tag : BitVec 8) (x : Answer),
    answerWord tag x = BitVec.ofNat 32 (tag.toNat + 256 * (match x with
      | .done => 1
      | .badState => 2
      | .badOperand => 3
      | .unknown => 4))) ∧
  (∀ (code tag : BitVec 8) (unused : BitVec 16),
    postWord code.toNat tag unused = BitVec.ofNat 32 (tag.toNat + 256 * code.toNat + 65536 * unused.toNat))

/-- R112, R125, R127, R159: CORE writes of operand words, of the report tail word, of the frame-mark word without a live plan
and of plan words are taken as they pass to memory. -/
def Obligations.SnoopedWritesTaken : Prop :=
  ((∀ (s : State) (n : Fin 4) (v : Word), s.takes (s.coreWord (2 + n.val) v) →
    ∃ t, exec (.operandWrite n v) s = .next t ∧
      t.command.shadow = s.command.shadow.set n.val v ∧
      Stores s t (s.coreWord (2 + n.val) v) v [.shadow]) ∧
  (∀ (s : State) (v : Word), s.takes (s.coreWord 9 v) →
    let moved := (BitVec.ofNat 6 v.toNat - s.writer.tail).toNat
    let occupancy (w : ReportWriter) : Nat := (w.head - w.tail).toNat
    ∃ t, exec (.tailUpdate v) s = .next t ∧
      (v.toNat ≤ 63 → moved ≤ occupancy s.writer →
        t.writer.tail.toNat = v.toNat ∧ occupancy t.writer + moved = occupancy s.writer ∧
        Stores s t (s.coreWord 9 v) v [.tail]) ∧
      ((63 < v.toNat ∨ occupancy s.writer < moved) → Stores s t (s.coreWord 9 v) v []))) ∧
  (∀ (s : State) (stamp : Word) (c : Instr), c ∈ frameMarkRows stamp →
    s.takes (s.coreWord 8 stamp) → s.loader.live = none →
    ∃ t, exec c s = .next t ∧ t.command.lastStamp = stamp ∧ Stores s t (s.coreWord 8 stamp) stamp [.lastStamp]) ∧
  (∀ (s : State) (off : BitVec 12) (v : Word), s.takes (s.coreWord off.toNat v) →
    1024 ≤ off.toNat → off.toNat ≤ 1862 →
    ∃ t, exec (.planWordWrite off v) s = .next t ∧
      (s.loader.state = .reading → s.loader.torn = none →
        t.loader = { s.loader with torn := some (off.toNat, s.loader.cursor) } ∧
        Stores s t (s.coreWord off.toNat v) v [.torn]) ∧
      ((s.loader.state ≠ .reading ∨ s.loader.torn ≠ none) → Stores s t (s.coreWord off.toNat v) v []))

/-- R111, R133: LOAD begins a load. -/
def Obligations.LoadBegins : Prop :=
  ∀ (s : State) (tag : BitVec 8) (unused : BitVec 16), s.takesPost 1 tag unused → s.loader.state = .idle →
    ∃ t, exec (.load tag unused) s = .next t ∧ Marked t 17 ∧
      t.loader = { s.loader with
        state := .reading, cursor := 1024, torn := none, sum := 0, loadWords := []
        readInFlight := if s.loader.staleRead then s.loader.readInFlight else true } ∧
      t.path.ownPL = s.path.ownPL ++ (if s.loader.staleRead then [] else [.planRead 1024]) ∧
      Posted s t 1 tag unused .done []
        ([.loadState, .cursor, .torn, .sum, .loadWords, .readInFlight, .ownPL] ++ statusParts)

/-- R17, R37, R119, R134: DROP gives up the plan and every record, and abandons a load in progress. -/
def Obligations.DropGivesUpThePlan : Prop :=
  ∀ (s : State) (p : Plan) (tag : BitVec 8) (unused : BitVec 16), s.takesPost 2 tag unused →
    s.command.device = .ready → s.loader.live = some p →
    ∃ t, exec (.drop tag unused) s = .next t ∧
      t.command.device = .cold ∧ Marked t 16 ∧ Marked t 17 ∧
      (s.loader.state = .idle → t.loader = { s.loader with cursor := 1024, live := none }) ∧
      (s.loader.state ≠ .idle →
        t.loader = { s.loader with
          state := .idle, cursor := 1024, live := none, standby := none, torn := none, loadWords := []
          outcome := .abandoned, readInFlight := false
          staleRead := s.loader.staleRead || s.loader.readInFlight } ∧
        Reported (s.looked (s.postOf 2 tag unused)) t .planRejected 5 (word (loadStateCode s.loader.state))
          (word s.loader.cursor)) ∧
      (∀ l, t.line l = LineRec.start) ∧ (∀ a, t.area a = AreaRec.fresh) ∧
      (∀ z : Fin 48, z.val < p.zoneCount → Marked t (54 + z.val)) ∧
      (∀ l : Fin 24, l.val < p.lineCount → Marked t (30 + l.val)) ∧
      (∀ a : Fin 8, a.val < p.areaCount → Marked t (22 + a.val)) ∧
      Posted s t 2 tag unused .done []
        ([.device, .lines, .areas, .taps, .guards, .loadState, .cursor, .live] ++ statusParts ++
          if s.loader.state = .idle then []
          else [.standby, .torn, .loadWords, .outcome, .readInFlight, .staleRead, .queue, .dropped, .total])

/-- R35, R50, R135, R136, R151, R152: ARM enters SERVICE with every area in use fresh; DISARM enters READY, gives up every source
and pin, sends every zone its rest delay and turns SERVICE watch units OFF. -/
def Obligations.ArmAndDisarm : Prop :=
  (∀ (s : State) (p : Plan) (tag : BitVec 8) (unused : BitVec 16), s.takesPost 3 tag unused →
    s.command.device = .ready → s.loader.live = some p →
    ∃ t, exec (.arm tag unused) s = .next t ∧ t.command.device = .service ∧ Marked t 16 ∧
      (∀ a : Fin 8, t.area a = if a.val < p.areaCount then AreaRec.fresh else s.area a) ∧
      (∀ a : Fin 8, a.val < p.areaCount → Marked t (22 + a.val)) ∧
      Posted s t 3 tag unused .done [] ([.device, .areas] ++ statusParts)) ∧
  (∀ (s : State) (p : Plan) (tag : BitVec 8) (unused : BitVec 16), s.takesPost 4 tag unused →
    s.command.device = .service → s.loader.live = some p →
    let u := s.looked (s.postOf 4 tag unused)
    ∃ t, exec (.disarm tag unused) s = .next t ∧ t.command.device = .ready ∧ Marked t 16 ∧
      (∀ a : Fin 8, t.area a = if a.val < p.areaCount then AreaRec.fresh else s.area a) ∧
      (∀ a : Fin 8, a.val < p.areaCount → Marked t (22 + a.val)) ∧
      (∀ z : Fin 48,
        t.tap z = (if z.val < p.zoneCount then
          { s.tap z with pendingTarget :=
              pendingAfter (s.tap z).glide (p.restDelay z.val) }
          else s.tap z) ∧
        ((t.tap z).pendingTarget.isSome ≠ (s.tap z).pendingTarget.isSome → Marked t (54 + z.val))) ∧
      (∀ k : Fin 4, t.unit k = { u.unit k with
        on := (u.unit k).on && decide ((u.unit k).scope ≠ .service) }) ∧
      (∀ k : Fin 4, (t.unit k).on ≠ (u.unit k).on → ∀ n : Fin 4, Marked t (102 + 4 * k.val + n.val)) ∧
      Posted s t 4 tag unused .done [] ([.device, .areas, .taps, .watch] ++ statusParts))

/-- R33, R34, R137, R138: PIN holds an area to a candidate, a switch if its source differs; FREE lets it go. -/
def Obligations.PinAndFree : Prop :=
  (∀ (s : State) (p : Plan) (tag : BitVec 8) (unused : BitVec 16) (a i : Fin 8), s.takesPost 5 tag unused →
    s.command.device = .service → s.loader.live = some p →
    s.command.shadow[0].toNat = a.val → s.command.shadow[1].toNat = i.val → a.val < p.areaCount →
    i.val < p.candCount a.val →
    ∃ t, exec (.pin tag unused) s = .next t ∧ Marked t (22 + a.val) ∧ (∀ k, k ≠ a → t.area k = s.area k) ∧
      ((s.area a).elected = some i →
        t.area a = { s.area a with pin := some i, quiet := 0 } ∧
        Posted s t 5 tag unused .done [] (.areas :: statusParts)) ∧
      ((s.area a).elected ≠ some i →
        t.area a = { s.area a with pin := some i, elected := some i, quiet := 0, dwell := 0 } ∧
        Reported (s.looked (s.postOf 5 tag unused)) t .elected a.val (word (sourceCode (s.area a).elected))
          (word i.val) ∧
        (∀ z : Fin 48,
          t.tap z = (if z.val < p.zoneCount ∧ p.zoneArea z.val = a.val then
            { s.tap z with pendingTarget :=
                pendingAfter (s.tap z).glide (p.rowEntry z.val i.val) }
            else s.tap z) ∧
          ((t.tap z).pendingTarget.isSome ≠ (s.tap z).pendingTarget.isSome → Marked t (54 + z.val))) ∧
        Posted s t 5 tag unused .done [] (.areas :: .taps :: reportParts))) ∧
  (∀ (s : State) (p : Plan) (tag : BitVec 8) (unused : BitVec 16) (a : Fin 8), s.takesPost 6 tag unused →
    s.command.device = .service → s.loader.live = some p →
    s.command.shadow[0].toNat = a.val → a.val < p.areaCount →
    ∃ t, exec (.free tag unused) s = .next t ∧ (∀ k, k ≠ a → t.area k = s.area k) ∧
      t.area a = { s.area a with pin := none } ∧
      ((s.area a).pin ≠ none → Marked t (22 + a.val) ∧ Posted s t 6 tag unused .done [] (.areas :: statusParts)) ∧
      ((s.area a).pin = none → Posted s t 6 tag unused .done [] []))

/-- R14, R77, R78, R139 to R141: MUTE, PROOF and CLEAR. -/
def Obligations.MuteProofAndClear : Prop :=
  (∀ (s : State) (p : Plan) (tag : BitVec 8) (unused : BitVec 16) (on : Bool), s.takesPost 7 tag unused →
    s.command.device ≠ .cold → s.loader.live = some p →
    (s.command.shadow[0].toNat < p.zoneCount ∨ s.command.shadow[0] = 255) → p.zoneCount ≤ 48 →
    s.command.shadow[1] = (if on then 1 else 0) →
    ∃ t, exec (.mute tag unused) s = .next t ∧
      (∀ z : Fin 48,
        t.guard z = (if s.command.shadow[0].toNat = z.val ∨ (s.command.shadow[0] = 255 ∧ z.val < p.zoneCount) then
          { s.guard z with muted := on } else s.guard z) ∧
        (t.guard z ≠ s.guard z → Marked t (54 + z.val))) ∧
      Posted s t 7 tag unused .done [] (.guards :: statusParts)) ∧
  (∀ (s : State) (p : Plan) (tag : BitVec 8) (unused : BitVec 16) (z : Fin 48) (on : Bool),
    s.takesPost 8 tag unused → s.command.device ≠ .cold → s.loader.live = some p →
    s.command.shadow[0].toNat = z.val → z.val < p.zoneCount → s.command.shadow[1] = (if on then 1 else 0) →
    (on = true → s.yieldLevel = false) →
    ∃ t, exec (.proof tag unused) s = .next t ∧ t.guard z = { s.guard z with proof := on } ∧
      (∀ k, k ≠ z → t.guard k = s.guard k) ∧ (t.guard z ≠ s.guard z → Marked t (54 + z.val)) ∧
      Posted s t 8 tag unused .done [] (.guards :: statusParts)) ∧
  (∀ (s : State) (p : Plan) (tag : BitVec 8) (unused : BitVec 16), s.takesPost 9 tag unused →
    s.command.device ≠ .cold → s.loader.live = some p →
    (s.command.shadow[0].toNat < p.lineCount ∨ s.command.shadow[0] = 255) → p.lineCount ≤ 24 →
    ∃ t, exec (.clear tag unused) s = .next t ∧
      (∀ l : Fin 24,
        t.line l = (if (s.command.shadow[0].toNat = l.val ∨ (s.command.shadow[0] = 255 ∧ l.val < p.lineCount)) ∧
            (s.line l).cond = .faulted then
          { s.line l with cond := if (s.line l).anchorValid then .running else .synced, quiet := 0 }
          else s.line l) ∧
        (t.line l ≠ s.line l → Marked t (30 + l.val))) ∧
      Posted s t 9 tag unused .done [] (.lines :: statusParts))

/-- R142, R150: WATCH SET, OFF and RESET_HITS on a unit as AW's look at the post word left it. -/
def Obligations.WatchOperations : Prop :=
  ∀ (s : State) (tag : BitVec 8) (unused : BitVec 16) (k : Fin 4) (c : Instr),
    c ∈ [Instr.watchSet tag unused, .watchOff tag unused, .watchResetHits tag unused] →
    s.takesPost 10 tag unused → postOutcome s 10 s.command.shadow = .done →
    s.command.shadow[0].toNat % 256 = k.val →
    let o := s.command.shadow
    let operation := o[0].toNat / 256 % 256
    let r := (s.looked (s.postOf 10 tag unused)).unit k
    ∃ t, exec c s = .next t ∧
      (∀ j, j ≠ k → t.unit j = (s.looked (s.postOf 10 tag unused)).unit j) ∧
      (operation = 1 → (t.unit k).on = true ∧ (t.unit k).base.toNat = o[1].toNat ∧
        (t.unit k).length = o[2].toNat ∧
        o[3].toNat / 2 % 4 = (match (t.unit k).kinds with
          | .read => 1
          | .write => 2
          | .either => 3) ∧
        (t.unit k).masters.toNat = o[3].toNat / 16 % 16 ∧
        ((t.unit k).scope = .service ↔ o[3].toNat / 256 % 2 = 1) ∧
        ((t.unit k).action = .fence ↔ o[3].toNat / 4096 % 2 = 1) ∧
        (t.unit k).hits = 0 ∧ (t.unit k).firstHit = none) ∧
      (operation = 2 → t.unit k = { r with on := false }) ∧
      (operation = 3 → t.unit k = { r with hits := 0, firstHit := none }) ∧
      (t.unit k ≠ r → ∀ n : Fin 4, Marked t (102 + 4 * k.val + n.val)) ∧
      Posted s t 10 tag unused .done [] (if t.unit k = r then [] else .watch :: statusParts)

/-- R57, R68, R143: TALLY writes a zone's two counts as detail words and leaves them 0. -/
def Obligations.TallyTakesTheCounts : Prop :=
  ∀ (s : State) (p : Plan) (tag : BitVec 8) (unused : BitVec 16) (z : Fin 48), s.takesPost 11 tag unused →
    s.command.device ≠ .cold → s.loader.live = some p →
    s.command.shadow[0].toNat = z.val → z.val < p.zoneCount →
    ∃ t, exec (.tally tag unused) s = .next t ∧
      t.tap z = { s.tap z with saturations := 0 } ∧ t.guard z = { s.guard z with ceilingCount := 0 } ∧
      (∀ k, k ≠ z → t.tap k = s.tap k ∧ t.guard k = s.guard k) ∧
      Posted s t 11 tag unused .done
        [.detailWrite 0 (word (s.tap z).saturations), .detailWrite 1 (word (s.guard z).ceilingCount)]
        [.taps, .guards]

/-! ### The address watch (chapter 8) -/

/-- R145, R146, R148: every unit that matches a word records it, and on its first hit keeps it and reports it; a unit
whose record stands asks for no report, and the reports come in unit order. -/
def Obligations.WatchedWordsRecorded : Prop :=
  ∀ (s : State) (w : UpWord),
    (s.unwatched w → s.looked w = s) ∧
    KeepsAllBut (.watch :: reportParts) s (s.looked w) ∧
    (∀ u : Fin 4,
      ((s.unit u).sees w →
        (s.looked w).unit u = { s.unit u with
          hits := min 65535 ((s.unit u).hits + 1)
          firstHit := (s.unit u).firstHit.or (some
            ⟨w.addr, w.master, isWrite w.dir, match w.dir with
              | .write v => some v
              | .read => none⟩) } ∧
        (∀ n : Fin 4, Marked (s.looked w) (102 + 4 * u.val + n.val))) ∧
      (¬ (s.unit u).sees w → (s.looked w).unit u = s.unit u) ∧
      (u ∈ watchersOf s w ↔ isWrite w.dir = false ∧ (s.unit u).sees w)) ∧
    Asks s.command.lastStamp s (s.looked w)
      (((List.finRange 4).filter fun u => decide ((s.unit u).sees w ∧ (s.unit u).firstHit = none)).map fun u =>
        ⟨.watchHit, u.val, addrWord w.addr, word (masterCode w.master + 256 * (if isWrite w.dir then 2 else 1))⟩) ∧
    (s.takes w → s.region w.addr = .noRegion →
      exec (.plainWord w.master w.addr w.dir) s = .next ((s.looked w).setPath { (s.looked w).path with
        inHand := some ⟨w, plainForm w, [plainAccess w], [],
          if isWrite w.dir then []
          else (List.finRange 4).filter fun u => (s.unit u).matches w⟩ }))

/-- R87, R147, R148: a write that a matching FENCE unit drops is recorded and reaches neither memory nor an owner; no
other word is dropped so. -/
def Obligations.FencedWriteDropped : Prop :=
  (∀ (s : State) (m : Master) (a : Addr) (v : Word) (u : Fin 4), s.takesWords →
    (s.unit u).sees ⟨m, a, .write v⟩ → (s.unit u).action = .fence →
    ∃ t, exec (.fencedWrite m a v) s = .next t ∧ Dropped s t ⟨m, a, .write v⟩ []) ∧
  (∀ (s : State) (w : UpWord),
    fenced s w = true ↔ isWrite w.dir = true ∧ ∃ u : Fin 4, (s.unit u).sees w ∧ (s.unit u).action = .fence)

/-! ### Reports and the status block (chapter 9) -/

/-- R157, R158, R160, R162: a head write completes: its report is published, ATTN follows, and RW goes on with a status
word if one is dirty, with the next report otherwise. The codes are those of 11.4 (`ReportCodes`). -/
def Obligations.HeadWritePublishes : Prop :=
  ReportCodes ∧
  ∀ (s : State) (i : BitVec 6), s.mem.wf → s.path.inHand = none → s.path.port = some (.own (.headWrite i)) →
    ∃ t, exec .headWriteComplete s = .next t ∧ t.path.port = none ∧
      t.writer.head = i ∧ t.writer.queue = s.writer.queue.tail ∧ t.attn = (i != s.writer.tail) ∧
      (∀ b, t.memRead b = if b = planAddr s.path.straps 18 then word i.toNat else s.memRead b) ∧
      (∀ off rest, s.writer.dirty = off :: rest →
        t.writer.work = .status ∧ t.writer.dirty = rest ∧
        t.path.ownRW = s.path.ownRW ++ [.statusWrite off (t.statusWord off)]) ∧
      (∀ r rest, s.writer.dirty = [] → s.writer.queue.tail = r :: rest →
        t.writer.work = .report ∧ t.writer.dirty = [] ∧
        t.path.ownRW = s.path.ownRW ++
          [.entryWrite i 0 (word (reportCode r.kind + 256 * r.subject + 65536 * r.droppedBefore)),
            .entryWrite i 1 r.stamp, .entryWrite i 2 r.detailA, .entryWrite i 3 r.detailB, .headWrite (i + 1)]) ∧
      (s.writer.dirty = [] → s.writer.queue.tail = [] →
        t.writer.work = .free ∧ t.writer.dirty = [] ∧ t.path.ownRW = s.path.ownRW) ∧
      KeepsAllBut [.port, .mem, .head, .queue, .work, .dirty, .ownRW] s t

/-- R124, R161 to R164: a status write completes: outside STARTING RW goes on with a report if one waits; during STARTING
with status words only; the last start-up write ends start-up. The value of every status word is that of 11.5
(`ShowsStatus`). -/
def Obligations.StatusWriteCompletes : Prop :=
  (∀ s : State, ShowsStatus s) ∧
  ∀ (s : State) (off : Nat) (v : Word), s.mem.wf → s.path.inHand = none → off < 4096 →
    s.path.port = some (.own (.statusWrite off v)) →
    ∃ t, exec .statusWriteComplete s = .next t ∧ t.path.port = none ∧
      (∀ b, t.memRead b = if b = planAddr s.path.straps off then v else s.memRead b) ∧
      (s.command.device ≠ .starting → ∀ r rest, s.writer.queue = r :: rest →
        t.writer.work = .report ∧ t.path.ownRW = s.path.ownRW ++
          [.entryWrite s.writer.head 0 (word (reportCode r.kind + 256 * r.subject + 65536 * r.droppedBefore)),
            .entryWrite s.writer.head 1 r.stamp, .entryWrite s.writer.head 2 r.detailA,
            .entryWrite s.writer.head 3 r.detailB, .headWrite (s.writer.head + 1)] ∧
        KeepsAllBut [.port, .mem, .work, .ownRW] s t) ∧
      ((s.command.device = .starting ∨ s.writer.queue = []) → ∀ k rest, s.writer.dirty = k :: rest →
        t.writer.work = .status ∧ t.writer.dirty = rest ∧
        t.path.ownRW = s.path.ownRW ++ [.statusWrite k (s.statusWord k)] ∧
        KeepsAllBut [.port, .mem, .work, .dirty, .ownRW] s t) ∧
      (s.command.device ≠ .starting → s.writer.queue = [] → s.writer.dirty = [] →
        t.writer.work = .free ∧ KeepsAllBut [.port, .mem, .work] s t) ∧
      (s.command.device = .starting → s.writer.dirty = [] → s.store.cursor ≠ 193 →
        t.writer.work = .free ∧ KeepsAllBut [.port, .mem, .work] s t) ∧
      (s.command.device = .starting → s.writer.dirty = [] → s.store.cursor = 193 →
        t.command.device = .cold ∧ Marked t 16 ∧
        Reported s t .started 0 (word (causeCode s.command.cause)) (word (storeCondCode s.store.cond)) ∧
        KeepsAllBut ([.port, .mem, .device] ++ reportParts) s t)

/-! ### The safety store (chapter 10) -/

/-- R124, R167, R168: the start-up check decides the condition and begins the image writes; each image write that
completes begins the next, and the last may end start-up. -/
def Obligations.StoreStartsUp : Prop :=
  (∀ (s : State), s.betweenWords → s.store.checkPending = true → s.store.cursor = 0 →
    ∃ t, exec .startUpCheck s = .next t ∧ Marked t 20 ∧
      t.store = { s.store with
        cond := if s.store.entrySum = s.store.checksum then .valid else .invalid, checkPending := false } ∧
      t.path.ownSS = s.path.ownSS ++ [.imageWrite 0 s.store.words[0]] ∧
      KeepsAllBut ([.storeCond, .checkPending, .ownSS] ++ statusParts) s t) ∧
  (∀ (s : State) (i : Fin 193) (v : Word), s.mem.wf → s.path.inHand = none →
    s.path.port = some (.own (.imageWrite i v)) →
    ∃ t, exec .imageWriteComplete s = .next t ∧ t.path.port = none ∧ t.store.cursor = i.val + 1 ∧
      (∀ b, t.memRead b = if b = planAddr s.path.straps (512 + i.val) then v else s.memRead b) ∧
      (∀ k : Fin 193, k.val = i.val + 1 →
        t.path.ownSS = s.path.ownSS ++ [.imageWrite k s.store.words[k.val]] ∧
        KeepsAllBut [.port, .mem, .imageCursor, .ownSS] s t) ∧
      (i.val = 192 → ¬ (s.command.device = .starting ∧ s.writer.dirty = [] ∧ s.writer.work = .free) →
        KeepsAllBut [.port, .mem, .imageCursor] s t) ∧
      (i.val = 192 → s.command.device = .starting → s.writer.dirty = [] → s.writer.work = .free →
        t.command.device = .cold ∧ Marked t 16 ∧
        Reported s t .started 0 (word (causeCode s.command.cause)) (word (storeCondCode s.store.cond)) ∧
        KeepsAllBut ([.port, .mem, .imageCursor, .device] ++ reportParts) s t))

/-- R170: a permit request. -/
def Obligations.PermitRequestTaken : Prop :=
  ∀ (s : State) (n : Word), s.takes (s.coreWord 10 n) →
    let w := s.coreWord 10 n
    let permit := s.store.permit
    let old : Nat := match permit with
      | none => 255
      | some k => k.val
    ∃ t, exec (.permitRequest n) s = .next t ∧
      (∀ i v, s.store.programming = some (i, v) →
        t.store = s.store ∧ Reported (s.looked w) t .storeRefused 1 n (word i.val) ∧ Stores s t w n reportParts) ∧
      (s.store.programming = none → 192 < n.toNat →
        t.store = { s.store with permit := none } ∧ Reported (s.looked w) t .storeRefused 2 n (word old) ∧
        (permit ≠ none → Marked t 20) ∧ Stores s t w n (.permit :: reportParts)) ∧
      (∀ i : Fin 193, s.store.programming = none → n.toNat = i.val →
        t.store = { s.store with permit := some i } ∧ (permit ≠ some i → Marked t 20) ∧
        Stores s t w n (if permit = some i then [] else .permit :: statusParts))

/-- R171, R172: a write to the store image, by the first line of the table that applies, and by another master. -/
def Obligations.ImageWritesTaken : Prop :=
  (∀ (s : State) (i : Fin 193) (v : Word), s.takes (s.coreWord (512 + i.val) v) →
    let w := s.coreWord (512 + i.val) v
    ∃ t, exec (.programmingRequest i v) s = .next t ∧
      (∀ j x, s.store.programming = some (j, x) →
        Reported (s.looked w) t .storeRefused 5 (word i.val) (word j.val) ∧ Dropped s t w reportParts) ∧
      (s.store.programming = none → s.store.permit = none →
        Reported (s.looked w) t .storeRefused 3 (word i.val) v ∧ Dropped s t w reportParts) ∧
      (∀ n, s.store.programming = none → s.store.permit = some n → n ≠ i →
        t.store = { s.store with permit := none } ∧ Marked t 20 ∧
        Reported (s.looked w) t .storeRefused 4 (word i.val) (word n.val) ∧
        Dropped s t w (.permit :: reportParts)) ∧
      (s.store.programming = none → s.store.permit = some i →
        t.store = { s.store with permit := none, programming := some (i, v) } ∧ Marked t 20 ∧
        Stores s t w v (.permit :: .programming :: statusParts))) ∧
  (∀ (s : State) (m : Master) (i : Fin 193) (v : Word),
    let w : UpWord := ⟨m, planAddr s.path.straps (512 + i.val), .write v⟩
    s.takes w → m ≠ .core →
    ∃ t, exec (.imageForeignWrite m i v) s = .next t ∧
      Reported (s.looked w) t .foreignWrite 255 (addrWord w.addr) (word (masterCode m)) ∧ Dropped s t w reportParts)

/-- R70, R83, R174, R175: a programming completes: the word, the condition, ZC's records with their status words, and the
reports in their order. -/
def Obligations.ProgrammingCompletes : Prop :=
  ∀ (s : State) (i : Fin 193) (v : Word), s.betweenWords → s.store.programming = some (i, v) →
    let stored : SafetyStore := { s.store with words := s.store.words.set i.val v, programming := none }
    let parts := [Part.words, .storeCond, .programming, .guards] ++ reportParts
    let marked (t : State) : Prop := ∀ z : Fin 48,
      ((t.guard z).state ≠ (s.guard z).state ∨ (t.guard z).yielding ≠ (s.guard z).yielding) → Marked t (54 + z.val)
    (i.val ≤ 191 →
      ∃ t, exec .entryProgrammingCompletion s = .next t ∧ Marked t 20 ∧
        t.store = { stored with cond := if s.store.cond = .valid then .unsealed else s.store.cond } ∧
        Reported s t .storeWritten i.val v s.store.words[i.val] ∧
        (∀ z : Fin 48,
          t.guard z = if s.store.cond ≠ .invalid ∧ z.val = i.val / 4 ∧ s.zoneInUse z.val = true then
            (s.guard z).entriesChanged (s.store.effective z) (t.store.effective z) s.yieldLevel else s.guard z) ∧
        marked t ∧ KeepsAllBut parts s t) ∧
    (i.val = 192 →
      ∃ t, exec .checksumProgrammingCompletion s = .next t ∧ Marked t 20 ∧
        t.store = { stored with cond := if stored.entrySum = v then .valid else .invalid } ∧
        Asks s.command.lastStamp s t [⟨.storeWritten, 192, v, s.store.words[i.val]⟩,
          ⟨.storeCheck, if stored.entrySum = v then 0 else 2, stored.entrySum, v⟩] ∧
        (∀ z : Fin 48,
          t.guard z = if (s.store.cond = .invalid ↔ t.store.cond ≠ .invalid) ∧ s.zoneInUse z.val = true then
            (s.guard z).entriesChanged (s.store.effective z) (t.store.effective z) s.yieldLevel else s.guard z) ∧
        marked t ∧ KeepsAllBut parts s t)

/-! ### Resets -/

/-- R2, R22, R41, R65, R101, R110, R132, R144, R163, R167, R178: what a reset of either kind leaves. The model's choices:
a granted access is made within the step (assumption log 8), memory is kept over a power-on (11), the interrupted store
word is a free value (13), a reset within a reset takes its own cause (16), the last completed word is cleared (23). -/
def Obligations.ResetLeavesTheResetValues : Prop :=
  ∀ (s : State) (c : Instr) (cause : ResetCause),
    (c, cause) ∈ [(Instr.powerOnReset, ResetCause.powerOn), (.resetPinAsserted, .resetPin)] →
    ∃ t, exec c s = .next t ∧ t.path = MemPath.reset s.path.straps ∧
      MemPath.reset s.path.straps = ⟨s.path.straps, true, none, [], [], none, 0, .pl, [], [], [], [], none⟩ ∧
      (∀ l, t.line l = LineRec.start) ∧
      LineRec.start = ⟨.idle, 0, 0, false, none, 0, false, false, false, false, 0⟩ ∧
      (∀ a, t.area a = AreaRec.fresh) ∧
      AreaRec.fresh = ⟨none, none, Vector.replicate 8 0, 0, 0, none, Vector.replicate 8 none⟩ ∧
      t.loader = ⟨.idle, 1024, false, false, none, 0, [], none, none, .none⟩ ∧
      t.command.device = .starting ∧ t.command.cause = cause ∧ t.command.slot = .idle ∧
      t.command.shadow = Vector.replicate 4 0 ∧ t.command.lastTag = none ∧ t.command.lastStamp = 0 ∧
      (∀ u, t.unit u = ⟨false, 0, 1, .either, 15, .standing, .note, 0, none⟩) ∧
      t.writer = ⟨0, 0, [], 0, 0, List.range' 16 102, .free⟩ ∧ t.attn = false ∧
      t.store.cond = .invalid ∧ t.store.programming = none ∧ t.store.permit = none ∧ t.store.cursor = 0 ∧
      (s.store.programming = none → t.store.words = s.store.words) ∧
      (∀ i v, s.store.programming = some (i, v) →
        (∀ k : Fin 193, k ≠ i → t.store.words[k.val] = s.store.words[k.val]) ∧
        (t.store.words[i.val] = s.store.words[i.val] ∨ t.store.words[i.val] = v)) ∧
      (s.path.port = none → t.mem = s.mem) ∧
      (∀ a, s.path.port = some (.upstream (.read a)) → t.mem = s.mem) ∧
      (∀ x, s.path.port = some (.own x) → x.data = none → t.mem = s.mem) ∧
      (∀ a v b, s.mem.wf → s.path.port = some (.upstream (.write a v)) →
        t.memRead b = if b = a then v else s.memRead b) ∧
      (∀ x v b, s.mem.wf → s.path.port = some (.own x) → x.data = some v →
        t.memRead b = if b = planAddr s.path.straps x.offset then v else s.memRead b) ∧
      t.pending = s.pending

/-- R79, R91, R101, R123, R163: a reset ends: straps and YIELD are sampled, the start-up check is under way and RW
begins to write the status block. That RESET_END outside a reset changes nothing is the model's choice (assumption
log 3). -/
def Obligations.ResetEndBeginsStartUp : Prop :=
  ∀ (s : State) (straps : BitVec 6) (level : Bool),
    (s.path.resetHeld = false → exec (.resetEnd straps level) s = .next s) ∧
    (s.path.resetHeld = true →
      ∃ t, exec (.resetEnd straps level) s = .next t ∧ t.path.resetHeld = false ∧ t.path.straps = straps ∧
        t.yieldLevel = level ∧ t.store.checkPending = true ∧
        (s.command.device = .starting → s.writer = ReportWriter.reset →
          t.writer = { s.writer with dirty := List.range' 17 101, work := .status } ∧
          t.path.ownRW = s.path.ownRW ++ [.statusWrite 16 0]) ∧
        KeepsAllBut ([.resetHeld, .straps, .yieldLevel, .checkPending] ++ statusParts) s t)

/-! ### The machine -/

/-- A step takes the command at the front of the queue and executes it on the state with the queue's rest; on an empty
queue the part idles (assumption log 20). -/
def Obligations.StepTakesTheFrontCommand : Prop :=
  (∀ (s : State) (c : Instr) (rest : List Instr),
    step { s with pending := c :: rest } = exec c { s with pending := rest }) ∧
  (∀ s : State, s.pending = [] → step s = .next s)

/-- R86: no command stops the part, and none touches the queue of commands waiting. A command for an event that cannot
occur answers too, which is the model's choice (assumption log 3). -/
def Obligations.EveryCommandAnswersNext : Prop :=
  ∀ (c : Instr) (s : State), ∃ t, exec c s = .next t ∧ t.pending = s.pending

/-- Memory keeps its canonical form through every step. -/
def Obligations.MemoryStaysCanonical : Prop :=
  ∀ (s t : State), s.mem.wf → step s = .next t → t.mem.wf

/-- R155, R157, R161, 9.2: the posting queue, the ring, RW's one piece of work and the dirty set stay within their bounds
through every step. -/
def Obligations.ReportWriterStaysInBounds : Prop :=
  ∀ (s t : State), RingOk s → DirtyOk s → step s = .next t → RingOk t ∧ DirtyOk t

/-- R95, R169: the arbiter's count stays at most 8, and a VALID store stays sealed, through every step. -/
def Obligations.CountAndSealStay : Prop :=
  ∀ (s t : State), CountOk s → SealOk s → step s = .next t → CountOk t ∧ SealOk t

/-- R23, R27, R42, R109, R117, R122: through every step the live plan is a checked one, sources and pins name candidates, no
area is left collecting, and every delay stays within the bound of its line. -/
def Obligations.AlignmentStaysSound : Prop :=
  ∀ (s t : State), AlignmentOk s → step s = .next t → AlignmentOk t

/-- The state right after a reset (R2, R22, R101, R110, R132, R144, R163, R167), and the invariants in it. Memory, store
words, straps and YIELD before the reset ends are the model's choice (assumption log 10, 12, 14), and so is that memory is
kept over POWER_ON_RESET (11); each reset uses one more free value, whatever their count was (13). -/
def Obligations.ResetStateAndInvariants : Prop :=
  (exec .powerOnReset State.reset = .next { State.reset with freeUsed := State.reset.freeUsed + 1 } ∧
    State.reset.pending = [] ∧ State.reset.mem = [] ∧ State.reset.path.resetHeld = true ∧
    State.reset.command.device = .starting ∧ State.reset.command.cause = .powerOn ∧
    State.reset.loader.live = none ∧ State.reset.writer.dirty = List.range' 16 102 ∧
    State.reset.attn = false ∧ State.reset.store.cond = .invalid) ∧
  (State.reset.mem.wf ∧ RingOk State.reset ∧ DirtyOk State.reset ∧ CountOk State.reset ∧ SealOk State.reset ∧
    AlignmentOk State.reset)
end

