-- ==== Sys2Proof/Decode.lean ====
section
/-!
DEFINITION. The table gives no row any bits: the part has no instruction words, it takes words of its upstream port,
events of its memory port and edges of its pins. So no word spells a command.
-/
namespace Sys2Proof

/-- The command a word of the table's bits spells: none, since no row of spec/opcode_table.json gives bits. -/
def decodeTableWord (_nbits _w : Nat) : Option Instr := none

end Sys2Proof
end

