-- ==== Sys2Proof/Laws/State.lean ====
section
/-!
SUPPORT. What each update of the state leaves in each field, so that no proof unfolds a record update.
-/
namespace Sys2Proof.Machine

/-! ### memWrite -/

@[simp] theorem memWrite_pending (s : State) (a : Addr) (v : Word) : (s.memWrite a v).pending = s.pending := rfl

@[simp] theorem memWrite_mem (s : State) (a : Addr) (v : Word) : (s.memWrite a v).mem = s.mem.write a.toNat v := rfl

@[simp] theorem memWrite_path (s : State) (a : Addr) (v : Word) : (s.memWrite a v).path = s.path := rfl

@[simp] theorem memWrite_lines (s : State) (a : Addr) (v : Word) : (s.memWrite a v).lines = s.lines := rfl

@[simp] theorem memWrite_areas (s : State) (a : Addr) (v : Word) : (s.memWrite a v).areas = s.areas := rfl

@[simp] theorem memWrite_taps (s : State) (a : Addr) (v : Word) : (s.memWrite a v).taps = s.taps := rfl

@[simp] theorem memWrite_guards (s : State) (a : Addr) (v : Word) : (s.memWrite a v).guards = s.guards := rfl

@[simp] theorem memWrite_yieldLevel (s : State) (a : Addr) (v : Word) : (s.memWrite a v).yieldLevel = s.yieldLevel := rfl

@[simp] theorem memWrite_loader (s : State) (a : Addr) (v : Word) : (s.memWrite a v).loader = s.loader := rfl

@[simp] theorem memWrite_command (s : State) (a : Addr) (v : Word) : (s.memWrite a v).command = s.command := rfl

@[simp] theorem memWrite_watch (s : State) (a : Addr) (v : Word) : (s.memWrite a v).watch = s.watch := rfl

@[simp] theorem memWrite_writer (s : State) (a : Addr) (v : Word) : (s.memWrite a v).writer = s.writer := rfl

@[simp] theorem memWrite_store (s : State) (a : Addr) (v : Word) : (s.memWrite a v).store = s.store := rfl

@[simp] theorem memWrite_freeUsed (s : State) (a : Addr) (v : Word) : (s.memWrite a v).freeUsed = s.freeUsed := rfl

/-! ### setLine -/

@[simp] theorem setLine_pending (s : State) (l : Fin 24) (r : LineRec) : (s.setLine l r).pending = s.pending := rfl

@[simp] theorem setLine_mem (s : State) (l : Fin 24) (r : LineRec) : (s.setLine l r).mem = s.mem := rfl

@[simp] theorem setLine_path (s : State) (l : Fin 24) (r : LineRec) : (s.setLine l r).path = s.path := rfl

@[simp] theorem setLine_lines (s : State) (l : Fin 24) (r : LineRec) : (s.setLine l r).lines = s.lines.set l.val r := rfl

@[simp] theorem setLine_areas (s : State) (l : Fin 24) (r : LineRec) : (s.setLine l r).areas = s.areas := rfl

@[simp] theorem setLine_taps (s : State) (l : Fin 24) (r : LineRec) : (s.setLine l r).taps = s.taps := rfl

@[simp] theorem setLine_guards (s : State) (l : Fin 24) (r : LineRec) : (s.setLine l r).guards = s.guards := rfl

@[simp] theorem setLine_yieldLevel (s : State) (l : Fin 24) (r : LineRec) : (s.setLine l r).yieldLevel = s.yieldLevel := rfl

@[simp] theorem setLine_loader (s : State) (l : Fin 24) (r : LineRec) : (s.setLine l r).loader = s.loader := rfl

@[simp] theorem setLine_command (s : State) (l : Fin 24) (r : LineRec) : (s.setLine l r).command = s.command := rfl

@[simp] theorem setLine_watch (s : State) (l : Fin 24) (r : LineRec) : (s.setLine l r).watch = s.watch := rfl

@[simp] theorem setLine_writer (s : State) (l : Fin 24) (r : LineRec) : (s.setLine l r).writer = s.writer := rfl

@[simp] theorem setLine_store (s : State) (l : Fin 24) (r : LineRec) : (s.setLine l r).store = s.store := rfl

@[simp] theorem setLine_freeUsed (s : State) (l : Fin 24) (r : LineRec) : (s.setLine l r).freeUsed = s.freeUsed := rfl

/-! ### setArea -/

@[simp] theorem setArea_pending (s : State) (a : Fin 8) (r : AreaRec) : (s.setArea a r).pending = s.pending := rfl

@[simp] theorem setArea_mem (s : State) (a : Fin 8) (r : AreaRec) : (s.setArea a r).mem = s.mem := rfl

@[simp] theorem setArea_path (s : State) (a : Fin 8) (r : AreaRec) : (s.setArea a r).path = s.path := rfl

@[simp] theorem setArea_lines (s : State) (a : Fin 8) (r : AreaRec) : (s.setArea a r).lines = s.lines := rfl

@[simp] theorem setArea_areas (s : State) (a : Fin 8) (r : AreaRec) : (s.setArea a r).areas = s.areas.set a.val r := rfl

@[simp] theorem setArea_taps (s : State) (a : Fin 8) (r : AreaRec) : (s.setArea a r).taps = s.taps := rfl

@[simp] theorem setArea_guards (s : State) (a : Fin 8) (r : AreaRec) : (s.setArea a r).guards = s.guards := rfl

@[simp] theorem setArea_yieldLevel (s : State) (a : Fin 8) (r : AreaRec) : (s.setArea a r).yieldLevel = s.yieldLevel := rfl

@[simp] theorem setArea_loader (s : State) (a : Fin 8) (r : AreaRec) : (s.setArea a r).loader = s.loader := rfl

@[simp] theorem setArea_command (s : State) (a : Fin 8) (r : AreaRec) : (s.setArea a r).command = s.command := rfl

@[simp] theorem setArea_watch (s : State) (a : Fin 8) (r : AreaRec) : (s.setArea a r).watch = s.watch := rfl

@[simp] theorem setArea_writer (s : State) (a : Fin 8) (r : AreaRec) : (s.setArea a r).writer = s.writer := rfl

@[simp] theorem setArea_store (s : State) (a : Fin 8) (r : AreaRec) : (s.setArea a r).store = s.store := rfl

@[simp] theorem setArea_freeUsed (s : State) (a : Fin 8) (r : AreaRec) : (s.setArea a r).freeUsed = s.freeUsed := rfl

/-! ### setTap -/

@[simp] theorem setTap_pending (s : State) (z : Fin 48) (r : TapRec) : (s.setTap z r).pending = s.pending := rfl

@[simp] theorem setTap_mem (s : State) (z : Fin 48) (r : TapRec) : (s.setTap z r).mem = s.mem := rfl

@[simp] theorem setTap_path (s : State) (z : Fin 48) (r : TapRec) : (s.setTap z r).path = s.path := rfl

@[simp] theorem setTap_lines (s : State) (z : Fin 48) (r : TapRec) : (s.setTap z r).lines = s.lines := rfl

@[simp] theorem setTap_areas (s : State) (z : Fin 48) (r : TapRec) : (s.setTap z r).areas = s.areas := rfl

@[simp] theorem setTap_taps (s : State) (z : Fin 48) (r : TapRec) : (s.setTap z r).taps = s.taps.set z.val r := rfl

@[simp] theorem setTap_guards (s : State) (z : Fin 48) (r : TapRec) : (s.setTap z r).guards = s.guards := rfl

@[simp] theorem setTap_yieldLevel (s : State) (z : Fin 48) (r : TapRec) : (s.setTap z r).yieldLevel = s.yieldLevel := rfl

@[simp] theorem setTap_loader (s : State) (z : Fin 48) (r : TapRec) : (s.setTap z r).loader = s.loader := rfl

@[simp] theorem setTap_command (s : State) (z : Fin 48) (r : TapRec) : (s.setTap z r).command = s.command := rfl

@[simp] theorem setTap_watch (s : State) (z : Fin 48) (r : TapRec) : (s.setTap z r).watch = s.watch := rfl

@[simp] theorem setTap_writer (s : State) (z : Fin 48) (r : TapRec) : (s.setTap z r).writer = s.writer := rfl

@[simp] theorem setTap_store (s : State) (z : Fin 48) (r : TapRec) : (s.setTap z r).store = s.store := rfl

@[simp] theorem setTap_freeUsed (s : State) (z : Fin 48) (r : TapRec) : (s.setTap z r).freeUsed = s.freeUsed := rfl

/-! ### setGuard -/

@[simp] theorem setGuard_pending (s : State) (z : Fin 48) (r : GuardRec) : (s.setGuard z r).pending = s.pending := rfl

@[simp] theorem setGuard_mem (s : State) (z : Fin 48) (r : GuardRec) : (s.setGuard z r).mem = s.mem := rfl

@[simp] theorem setGuard_path (s : State) (z : Fin 48) (r : GuardRec) : (s.setGuard z r).path = s.path := rfl

@[simp] theorem setGuard_lines (s : State) (z : Fin 48) (r : GuardRec) : (s.setGuard z r).lines = s.lines := rfl

@[simp] theorem setGuard_areas (s : State) (z : Fin 48) (r : GuardRec) : (s.setGuard z r).areas = s.areas := rfl

@[simp] theorem setGuard_taps (s : State) (z : Fin 48) (r : GuardRec) : (s.setGuard z r).taps = s.taps := rfl

@[simp] theorem setGuard_guards (s : State) (z : Fin 48) (r : GuardRec) : (s.setGuard z r).guards = s.guards.set z.val r := rfl

@[simp] theorem setGuard_yieldLevel (s : State) (z : Fin 48) (r : GuardRec) : (s.setGuard z r).yieldLevel = s.yieldLevel := rfl

@[simp] theorem setGuard_loader (s : State) (z : Fin 48) (r : GuardRec) : (s.setGuard z r).loader = s.loader := rfl

@[simp] theorem setGuard_command (s : State) (z : Fin 48) (r : GuardRec) : (s.setGuard z r).command = s.command := rfl

@[simp] theorem setGuard_watch (s : State) (z : Fin 48) (r : GuardRec) : (s.setGuard z r).watch = s.watch := rfl

@[simp] theorem setGuard_writer (s : State) (z : Fin 48) (r : GuardRec) : (s.setGuard z r).writer = s.writer := rfl

@[simp] theorem setGuard_store (s : State) (z : Fin 48) (r : GuardRec) : (s.setGuard z r).store = s.store := rfl

@[simp] theorem setGuard_freeUsed (s : State) (z : Fin 48) (r : GuardRec) : (s.setGuard z r).freeUsed = s.freeUsed := rfl

/-! ### setUnit -/

@[simp] theorem setUnit_pending (s : State) (u : Fin 4) (r : WatchUnit) : (s.setUnit u r).pending = s.pending := rfl

@[simp] theorem setUnit_mem (s : State) (u : Fin 4) (r : WatchUnit) : (s.setUnit u r).mem = s.mem := rfl

@[simp] theorem setUnit_path (s : State) (u : Fin 4) (r : WatchUnit) : (s.setUnit u r).path = s.path := rfl

@[simp] theorem setUnit_lines (s : State) (u : Fin 4) (r : WatchUnit) : (s.setUnit u r).lines = s.lines := rfl

@[simp] theorem setUnit_areas (s : State) (u : Fin 4) (r : WatchUnit) : (s.setUnit u r).areas = s.areas := rfl

@[simp] theorem setUnit_taps (s : State) (u : Fin 4) (r : WatchUnit) : (s.setUnit u r).taps = s.taps := rfl

@[simp] theorem setUnit_guards (s : State) (u : Fin 4) (r : WatchUnit) : (s.setUnit u r).guards = s.guards := rfl

@[simp] theorem setUnit_yieldLevel (s : State) (u : Fin 4) (r : WatchUnit) : (s.setUnit u r).yieldLevel = s.yieldLevel := rfl

@[simp] theorem setUnit_loader (s : State) (u : Fin 4) (r : WatchUnit) : (s.setUnit u r).loader = s.loader := rfl

@[simp] theorem setUnit_command (s : State) (u : Fin 4) (r : WatchUnit) : (s.setUnit u r).command = s.command := rfl

@[simp] theorem setUnit_watch (s : State) (u : Fin 4) (r : WatchUnit) : (s.setUnit u r).watch = s.watch.set u.val r := rfl

@[simp] theorem setUnit_writer (s : State) (u : Fin 4) (r : WatchUnit) : (s.setUnit u r).writer = s.writer := rfl

@[simp] theorem setUnit_store (s : State) (u : Fin 4) (r : WatchUnit) : (s.setUnit u r).store = s.store := rfl

@[simp] theorem setUnit_freeUsed (s : State) (u : Fin 4) (r : WatchUnit) : (s.setUnit u r).freeUsed = s.freeUsed := rfl

/-! ### setLoader -/

@[simp] theorem setLoader_pending (s : State) (l : Loader) : (s.setLoader l).pending = s.pending := rfl

@[simp] theorem setLoader_mem (s : State) (l : Loader) : (s.setLoader l).mem = s.mem := rfl

@[simp] theorem setLoader_path (s : State) (l : Loader) : (s.setLoader l).path = s.path := rfl

@[simp] theorem setLoader_lines (s : State) (l : Loader) : (s.setLoader l).lines = s.lines := rfl

@[simp] theorem setLoader_areas (s : State) (l : Loader) : (s.setLoader l).areas = s.areas := rfl

@[simp] theorem setLoader_taps (s : State) (l : Loader) : (s.setLoader l).taps = s.taps := rfl

@[simp] theorem setLoader_guards (s : State) (l : Loader) : (s.setLoader l).guards = s.guards := rfl

@[simp] theorem setLoader_yieldLevel (s : State) (l : Loader) : (s.setLoader l).yieldLevel = s.yieldLevel := rfl

@[simp] theorem setLoader_loader (s : State) (l : Loader) : (s.setLoader l).loader = l := rfl

@[simp] theorem setLoader_command (s : State) (l : Loader) : (s.setLoader l).command = s.command := rfl

@[simp] theorem setLoader_watch (s : State) (l : Loader) : (s.setLoader l).watch = s.watch := rfl

@[simp] theorem setLoader_writer (s : State) (l : Loader) : (s.setLoader l).writer = s.writer := rfl

@[simp] theorem setLoader_store (s : State) (l : Loader) : (s.setLoader l).store = s.store := rfl

@[simp] theorem setLoader_freeUsed (s : State) (l : Loader) : (s.setLoader l).freeUsed = s.freeUsed := rfl

/-! ### setCommand -/

@[simp] theorem setCommand_pending (s : State) (c : CommandUnit) : (s.setCommand c).pending = s.pending := rfl

@[simp] theorem setCommand_mem (s : State) (c : CommandUnit) : (s.setCommand c).mem = s.mem := rfl

@[simp] theorem setCommand_path (s : State) (c : CommandUnit) : (s.setCommand c).path = s.path := rfl

@[simp] theorem setCommand_lines (s : State) (c : CommandUnit) : (s.setCommand c).lines = s.lines := rfl

@[simp] theorem setCommand_areas (s : State) (c : CommandUnit) : (s.setCommand c).areas = s.areas := rfl

@[simp] theorem setCommand_taps (s : State) (c : CommandUnit) : (s.setCommand c).taps = s.taps := rfl

@[simp] theorem setCommand_guards (s : State) (c : CommandUnit) : (s.setCommand c).guards = s.guards := rfl

@[simp] theorem setCommand_yieldLevel (s : State) (c : CommandUnit) : (s.setCommand c).yieldLevel = s.yieldLevel := rfl

@[simp] theorem setCommand_loader (s : State) (c : CommandUnit) : (s.setCommand c).loader = s.loader := rfl

@[simp] theorem setCommand_command (s : State) (c : CommandUnit) : (s.setCommand c).command = c := rfl

@[simp] theorem setCommand_watch (s : State) (c : CommandUnit) : (s.setCommand c).watch = s.watch := rfl

@[simp] theorem setCommand_writer (s : State) (c : CommandUnit) : (s.setCommand c).writer = s.writer := rfl

@[simp] theorem setCommand_store (s : State) (c : CommandUnit) : (s.setCommand c).store = s.store := rfl

@[simp] theorem setCommand_freeUsed (s : State) (c : CommandUnit) : (s.setCommand c).freeUsed = s.freeUsed := rfl

/-! ### setWriter -/

@[simp] theorem setWriter_pending (s : State) (w : ReportWriter) : (s.setWriter w).pending = s.pending := rfl

@[simp] theorem setWriter_mem (s : State) (w : ReportWriter) : (s.setWriter w).mem = s.mem := rfl

@[simp] theorem setWriter_path (s : State) (w : ReportWriter) : (s.setWriter w).path = s.path := rfl

@[simp] theorem setWriter_lines (s : State) (w : ReportWriter) : (s.setWriter w).lines = s.lines := rfl

@[simp] theorem setWriter_areas (s : State) (w : ReportWriter) : (s.setWriter w).areas = s.areas := rfl

@[simp] theorem setWriter_taps (s : State) (w : ReportWriter) : (s.setWriter w).taps = s.taps := rfl

@[simp] theorem setWriter_guards (s : State) (w : ReportWriter) : (s.setWriter w).guards = s.guards := rfl

@[simp] theorem setWriter_yieldLevel (s : State) (w : ReportWriter) : (s.setWriter w).yieldLevel = s.yieldLevel := rfl

@[simp] theorem setWriter_loader (s : State) (w : ReportWriter) : (s.setWriter w).loader = s.loader := rfl

@[simp] theorem setWriter_command (s : State) (w : ReportWriter) : (s.setWriter w).command = s.command := rfl

@[simp] theorem setWriter_watch (s : State) (w : ReportWriter) : (s.setWriter w).watch = s.watch := rfl

@[simp] theorem setWriter_writer (s : State) (w : ReportWriter) : (s.setWriter w).writer = w := rfl

@[simp] theorem setWriter_store (s : State) (w : ReportWriter) : (s.setWriter w).store = s.store := rfl

@[simp] theorem setWriter_freeUsed (s : State) (w : ReportWriter) : (s.setWriter w).freeUsed = s.freeUsed := rfl

/-! ### setStore -/

@[simp] theorem setStore_pending (s : State) (t : SafetyStore) : (s.setStore t).pending = s.pending := rfl

@[simp] theorem setStore_mem (s : State) (t : SafetyStore) : (s.setStore t).mem = s.mem := rfl

@[simp] theorem setStore_path (s : State) (t : SafetyStore) : (s.setStore t).path = s.path := rfl

@[simp] theorem setStore_lines (s : State) (t : SafetyStore) : (s.setStore t).lines = s.lines := rfl

@[simp] theorem setStore_areas (s : State) (t : SafetyStore) : (s.setStore t).areas = s.areas := rfl

@[simp] theorem setStore_taps (s : State) (t : SafetyStore) : (s.setStore t).taps = s.taps := rfl

@[simp] theorem setStore_guards (s : State) (t : SafetyStore) : (s.setStore t).guards = s.guards := rfl

@[simp] theorem setStore_yieldLevel (s : State) (t : SafetyStore) : (s.setStore t).yieldLevel = s.yieldLevel := rfl

@[simp] theorem setStore_loader (s : State) (t : SafetyStore) : (s.setStore t).loader = s.loader := rfl

@[simp] theorem setStore_command (s : State) (t : SafetyStore) : (s.setStore t).command = s.command := rfl

@[simp] theorem setStore_watch (s : State) (t : SafetyStore) : (s.setStore t).watch = s.watch := rfl

@[simp] theorem setStore_writer (s : State) (t : SafetyStore) : (s.setStore t).writer = s.writer := rfl

@[simp] theorem setStore_store (s : State) (t : SafetyStore) : (s.setStore t).store = t := rfl

@[simp] theorem setStore_freeUsed (s : State) (t : SafetyStore) : (s.setStore t).freeUsed = s.freeUsed := rfl

/-! ### setPath -/

@[simp] theorem setPath_pending (s : State) (p : MemPath) : (s.setPath p).pending = s.pending := rfl

@[simp] theorem setPath_mem (s : State) (p : MemPath) : (s.setPath p).mem = s.mem := rfl

@[simp] theorem setPath_path (s : State) (p : MemPath) : (s.setPath p).path = p := rfl

@[simp] theorem setPath_lines (s : State) (p : MemPath) : (s.setPath p).lines = s.lines := rfl

@[simp] theorem setPath_areas (s : State) (p : MemPath) : (s.setPath p).areas = s.areas := rfl

@[simp] theorem setPath_taps (s : State) (p : MemPath) : (s.setPath p).taps = s.taps := rfl

@[simp] theorem setPath_guards (s : State) (p : MemPath) : (s.setPath p).guards = s.guards := rfl

@[simp] theorem setPath_yieldLevel (s : State) (p : MemPath) : (s.setPath p).yieldLevel = s.yieldLevel := rfl

@[simp] theorem setPath_loader (s : State) (p : MemPath) : (s.setPath p).loader = s.loader := rfl

@[simp] theorem setPath_command (s : State) (p : MemPath) : (s.setPath p).command = s.command := rfl

@[simp] theorem setPath_watch (s : State) (p : MemPath) : (s.setPath p).watch = s.watch := rfl

@[simp] theorem setPath_writer (s : State) (p : MemPath) : (s.setPath p).writer = s.writer := rfl

@[simp] theorem setPath_store (s : State) (p : MemPath) : (s.setPath p).store = s.store := rfl

@[simp] theorem setPath_freeUsed (s : State) (p : MemPath) : (s.setPath p).freeUsed = s.freeUsed := rfl

/-! ### Records by number -/

@[simp] theorem line_setLine_self (s : State) (i : Fin 24) (r : LineRec) : (s.setLine i r).line i = r := by
  simp [State.line, State.setLine]

theorem line_setLine_ne (s : State) (i k : Fin 24) (r : LineRec) (h : k ≠ i) :
    (s.setLine i r).line k = s.line k := by
  have : i.val ≠ k.val := fun e => h (Fin.ext e.symm)
  simp [State.line, State.setLine, this]

theorem line_setLine (s : State) (i k : Fin 24) (r : LineRec) :
    (s.setLine i r).line k = if k = i then r else s.line k := by
  by_cases h : k = i
  · subst h; simp
  · simp [h, line_setLine_ne s i k r h]

@[simp] theorem line_memWrite (s : State) (a : Addr) (v : Word) (k : Fin 24) :
    (s.memWrite a v).line k = s.line k := rfl

@[simp] theorem line_setArea (s : State) (a : Fin 8) (r : AreaRec) (k : Fin 24) :
    (s.setArea a r).line k = s.line k := rfl

@[simp] theorem line_setTap (s : State) (z : Fin 48) (r : TapRec) (k : Fin 24) :
    (s.setTap z r).line k = s.line k := rfl

@[simp] theorem line_setGuard (s : State) (z : Fin 48) (r : GuardRec) (k : Fin 24) :
    (s.setGuard z r).line k = s.line k := rfl

@[simp] theorem line_setUnit (s : State) (u : Fin 4) (r : WatchUnit) (k : Fin 24) :
    (s.setUnit u r).line k = s.line k := rfl

@[simp] theorem line_setLoader (s : State) (l : Loader) (k : Fin 24) :
    (s.setLoader l).line k = s.line k := rfl

@[simp] theorem line_setCommand (s : State) (c : CommandUnit) (k : Fin 24) :
    (s.setCommand c).line k = s.line k := rfl

@[simp] theorem line_setWriter (s : State) (w : ReportWriter) (k : Fin 24) :
    (s.setWriter w).line k = s.line k := rfl

@[simp] theorem line_setStore (s : State) (t : SafetyStore) (k : Fin 24) :
    (s.setStore t).line k = s.line k := rfl

@[simp] theorem line_setPath (s : State) (p : MemPath) (k : Fin 24) :
    (s.setPath p).line k = s.line k := rfl

@[simp] theorem area_setArea_self (s : State) (i : Fin 8) (r : AreaRec) : (s.setArea i r).area i = r := by
  simp [State.area, State.setArea]

theorem area_setArea_ne (s : State) (i k : Fin 8) (r : AreaRec) (h : k ≠ i) :
    (s.setArea i r).area k = s.area k := by
  have : i.val ≠ k.val := fun e => h (Fin.ext e.symm)
  simp [State.area, State.setArea, this]

theorem area_setArea (s : State) (i k : Fin 8) (r : AreaRec) :
    (s.setArea i r).area k = if k = i then r else s.area k := by
  by_cases h : k = i
  · subst h; simp
  · simp [h, area_setArea_ne s i k r h]

@[simp] theorem area_memWrite (s : State) (a : Addr) (v : Word) (k : Fin 8) :
    (s.memWrite a v).area k = s.area k := rfl

@[simp] theorem area_setLine (s : State) (l : Fin 24) (r : LineRec) (k : Fin 8) :
    (s.setLine l r).area k = s.area k := rfl

@[simp] theorem area_setTap (s : State) (z : Fin 48) (r : TapRec) (k : Fin 8) :
    (s.setTap z r).area k = s.area k := rfl

@[simp] theorem area_setGuard (s : State) (z : Fin 48) (r : GuardRec) (k : Fin 8) :
    (s.setGuard z r).area k = s.area k := rfl

@[simp] theorem area_setUnit (s : State) (u : Fin 4) (r : WatchUnit) (k : Fin 8) :
    (s.setUnit u r).area k = s.area k := rfl

@[simp] theorem area_setLoader (s : State) (l : Loader) (k : Fin 8) :
    (s.setLoader l).area k = s.area k := rfl

@[simp] theorem area_setCommand (s : State) (c : CommandUnit) (k : Fin 8) :
    (s.setCommand c).area k = s.area k := rfl

@[simp] theorem area_setWriter (s : State) (w : ReportWriter) (k : Fin 8) :
    (s.setWriter w).area k = s.area k := rfl

@[simp] theorem area_setStore (s : State) (t : SafetyStore) (k : Fin 8) :
    (s.setStore t).area k = s.area k := rfl

@[simp] theorem area_setPath (s : State) (p : MemPath) (k : Fin 8) :
    (s.setPath p).area k = s.area k := rfl

@[simp] theorem tap_setTap_self (s : State) (i : Fin 48) (r : TapRec) : (s.setTap i r).tap i = r := by
  simp [State.tap, State.setTap]

theorem tap_setTap_ne (s : State) (i k : Fin 48) (r : TapRec) (h : k ≠ i) :
    (s.setTap i r).tap k = s.tap k := by
  have : i.val ≠ k.val := fun e => h (Fin.ext e.symm)
  simp [State.tap, State.setTap, this]

theorem tap_setTap (s : State) (i k : Fin 48) (r : TapRec) :
    (s.setTap i r).tap k = if k = i then r else s.tap k := by
  by_cases h : k = i
  · subst h; simp
  · simp [h, tap_setTap_ne s i k r h]

@[simp] theorem tap_memWrite (s : State) (a : Addr) (v : Word) (k : Fin 48) :
    (s.memWrite a v).tap k = s.tap k := rfl

@[simp] theorem tap_setLine (s : State) (l : Fin 24) (r : LineRec) (k : Fin 48) :
    (s.setLine l r).tap k = s.tap k := rfl

@[simp] theorem tap_setArea (s : State) (a : Fin 8) (r : AreaRec) (k : Fin 48) :
    (s.setArea a r).tap k = s.tap k := rfl

@[simp] theorem tap_setGuard (s : State) (z : Fin 48) (r : GuardRec) (k : Fin 48) :
    (s.setGuard z r).tap k = s.tap k := rfl

@[simp] theorem tap_setUnit (s : State) (u : Fin 4) (r : WatchUnit) (k : Fin 48) :
    (s.setUnit u r).tap k = s.tap k := rfl

@[simp] theorem tap_setLoader (s : State) (l : Loader) (k : Fin 48) :
    (s.setLoader l).tap k = s.tap k := rfl

@[simp] theorem tap_setCommand (s : State) (c : CommandUnit) (k : Fin 48) :
    (s.setCommand c).tap k = s.tap k := rfl

@[simp] theorem tap_setWriter (s : State) (w : ReportWriter) (k : Fin 48) :
    (s.setWriter w).tap k = s.tap k := rfl

@[simp] theorem tap_setStore (s : State) (t : SafetyStore) (k : Fin 48) :
    (s.setStore t).tap k = s.tap k := rfl

@[simp] theorem tap_setPath (s : State) (p : MemPath) (k : Fin 48) :
    (s.setPath p).tap k = s.tap k := rfl

@[simp] theorem guard_setGuard_self (s : State) (i : Fin 48) (r : GuardRec) : (s.setGuard i r).guard i = r := by
  simp [State.guard, State.setGuard]

theorem guard_setGuard_ne (s : State) (i k : Fin 48) (r : GuardRec) (h : k ≠ i) :
    (s.setGuard i r).guard k = s.guard k := by
  have : i.val ≠ k.val := fun e => h (Fin.ext e.symm)
  simp [State.guard, State.setGuard, this]

theorem guard_setGuard (s : State) (i k : Fin 48) (r : GuardRec) :
    (s.setGuard i r).guard k = if k = i then r else s.guard k := by
  by_cases h : k = i
  · subst h; simp
  · simp [h, guard_setGuard_ne s i k r h]

@[simp] theorem guard_memWrite (s : State) (a : Addr) (v : Word) (k : Fin 48) :
    (s.memWrite a v).guard k = s.guard k := rfl

@[simp] theorem guard_setLine (s : State) (l : Fin 24) (r : LineRec) (k : Fin 48) :
    (s.setLine l r).guard k = s.guard k := rfl

@[simp] theorem guard_setArea (s : State) (a : Fin 8) (r : AreaRec) (k : Fin 48) :
    (s.setArea a r).guard k = s.guard k := rfl

@[simp] theorem guard_setTap (s : State) (z : Fin 48) (r : TapRec) (k : Fin 48) :
    (s.setTap z r).guard k = s.guard k := rfl

@[simp] theorem guard_setUnit (s : State) (u : Fin 4) (r : WatchUnit) (k : Fin 48) :
    (s.setUnit u r).guard k = s.guard k := rfl

@[simp] theorem guard_setLoader (s : State) (l : Loader) (k : Fin 48) :
    (s.setLoader l).guard k = s.guard k := rfl

@[simp] theorem guard_setCommand (s : State) (c : CommandUnit) (k : Fin 48) :
    (s.setCommand c).guard k = s.guard k := rfl

@[simp] theorem guard_setWriter (s : State) (w : ReportWriter) (k : Fin 48) :
    (s.setWriter w).guard k = s.guard k := rfl

@[simp] theorem guard_setStore (s : State) (t : SafetyStore) (k : Fin 48) :
    (s.setStore t).guard k = s.guard k := rfl

@[simp] theorem guard_setPath (s : State) (p : MemPath) (k : Fin 48) :
    (s.setPath p).guard k = s.guard k := rfl

@[simp] theorem unit_setUnit_self (s : State) (i : Fin 4) (r : WatchUnit) : (s.setUnit i r).unit i = r := by
  simp [State.unit, State.setUnit]

theorem unit_setUnit_ne (s : State) (i k : Fin 4) (r : WatchUnit) (h : k ≠ i) :
    (s.setUnit i r).unit k = s.unit k := by
  have : i.val ≠ k.val := fun e => h (Fin.ext e.symm)
  simp [State.unit, State.setUnit, this]

theorem unit_setUnit (s : State) (i k : Fin 4) (r : WatchUnit) :
    (s.setUnit i r).unit k = if k = i then r else s.unit k := by
  by_cases h : k = i
  · subst h; simp
  · simp [h, unit_setUnit_ne s i k r h]

@[simp] theorem unit_memWrite (s : State) (a : Addr) (v : Word) (k : Fin 4) :
    (s.memWrite a v).unit k = s.unit k := rfl

@[simp] theorem unit_setLine (s : State) (l : Fin 24) (r : LineRec) (k : Fin 4) :
    (s.setLine l r).unit k = s.unit k := rfl

@[simp] theorem unit_setArea (s : State) (a : Fin 8) (r : AreaRec) (k : Fin 4) :
    (s.setArea a r).unit k = s.unit k := rfl

@[simp] theorem unit_setTap (s : State) (z : Fin 48) (r : TapRec) (k : Fin 4) :
    (s.setTap z r).unit k = s.unit k := rfl

@[simp] theorem unit_setGuard (s : State) (z : Fin 48) (r : GuardRec) (k : Fin 4) :
    (s.setGuard z r).unit k = s.unit k := rfl

@[simp] theorem unit_setLoader (s : State) (l : Loader) (k : Fin 4) :
    (s.setLoader l).unit k = s.unit k := rfl

@[simp] theorem unit_setCommand (s : State) (c : CommandUnit) (k : Fin 4) :
    (s.setCommand c).unit k = s.unit k := rfl

@[simp] theorem unit_setWriter (s : State) (w : ReportWriter) (k : Fin 4) :
    (s.setWriter w).unit k = s.unit k := rfl

@[simp] theorem unit_setStore (s : State) (t : SafetyStore) (k : Fin 4) :
    (s.setStore t).unit k = s.unit k := rfl

@[simp] theorem unit_setPath (s : State) (p : MemPath) (k : Fin 4) :
    (s.setPath p).unit k = s.unit k := rfl

/-! ### The own-access engine's queues -/

@[simp] theorem issued_setIssued (p : MemPath) (c : Client) (l : List OwnAccess) : (p.setIssued c l).issued c = l := by
  cases c <;> rfl

theorem issued_setIssued_ne (p : MemPath) (c d : Client) (l : List OwnAccess) (h : d ≠ c) :
    (p.setIssued c l).issued d = p.issued d := by
  cases c <;> cases d <;> first | rfl | exact absurd rfl h

@[simp] theorem setIssued_straps (p : MemPath) (c : Client) (l : List OwnAccess) : (p.setIssued c l).straps = p.straps := by
  cases c <;> rfl

@[simp] theorem setIssued_resetHeld (p : MemPath) (c : Client) (l : List OwnAccess) : (p.setIssued c l).resetHeld = p.resetHeld := by
  cases c <;> rfl

@[simp] theorem setIssued_inHand (p : MemPath) (c : Client) (l : List OwnAccess) : (p.setIssued c l).inHand = p.inHand := by
  cases c <;> rfl

@[simp] theorem setIssued_waiting (p : MemPath) (c : Client) (l : List OwnAccess) : (p.setIssued c l).waiting = p.waiting := by
  cases c <;> rfl

@[simp] theorem setIssued_held (p : MemPath) (c : Client) (l : List OwnAccess) : (p.setIssued c l).held = p.held := by
  cases c <;> rfl

@[simp] theorem setIssued_port (p : MemPath) (c : Client) (l : List OwnAccess) : (p.setIssued c l).port = p.port := by
  cases c <;> rfl

@[simp] theorem setIssued_count (p : MemPath) (c : Client) (l : List OwnAccess) : (p.setIssued c l).count = p.count := by
  cases c <;> rfl

@[simp] theorem setIssued_pointer (p : MemPath) (c : Client) (l : List OwnAccess) : (p.setIssued c l).pointer = p.pointer := by
  cases c <;> rfl

@[simp] theorem setIssued_lastDone (p : MemPath) (c : Client) (l : List OwnAccess) : (p.setIssued c l).lastDone = p.lastDone := by
  cases c <;> rfl

@[simp] theorem setIssued_pl_ownPL (p : MemPath) (l : List OwnAccess) : (p.setIssued .pl l).ownPL = l := rfl

@[simp] theorem setIssued_cu_ownPL (p : MemPath) (l : List OwnAccess) : (p.setIssued .cu l).ownPL = p.ownPL := rfl

@[simp] theorem setIssued_rw_ownPL (p : MemPath) (l : List OwnAccess) : (p.setIssued .rw l).ownPL = p.ownPL := rfl

@[simp] theorem setIssued_ss_ownPL (p : MemPath) (l : List OwnAccess) : (p.setIssued .ss l).ownPL = p.ownPL := rfl

@[simp] theorem setIssued_pl_ownCU (p : MemPath) (l : List OwnAccess) : (p.setIssued .pl l).ownCU = p.ownCU := rfl

@[simp] theorem setIssued_cu_ownCU (p : MemPath) (l : List OwnAccess) : (p.setIssued .cu l).ownCU = l := rfl

@[simp] theorem setIssued_rw_ownCU (p : MemPath) (l : List OwnAccess) : (p.setIssued .rw l).ownCU = p.ownCU := rfl

@[simp] theorem setIssued_ss_ownCU (p : MemPath) (l : List OwnAccess) : (p.setIssued .ss l).ownCU = p.ownCU := rfl

@[simp] theorem setIssued_pl_ownRW (p : MemPath) (l : List OwnAccess) : (p.setIssued .pl l).ownRW = p.ownRW := rfl

@[simp] theorem setIssued_cu_ownRW (p : MemPath) (l : List OwnAccess) : (p.setIssued .cu l).ownRW = p.ownRW := rfl

@[simp] theorem setIssued_rw_ownRW (p : MemPath) (l : List OwnAccess) : (p.setIssued .rw l).ownRW = l := rfl

@[simp] theorem setIssued_ss_ownRW (p : MemPath) (l : List OwnAccess) : (p.setIssued .ss l).ownRW = p.ownRW := rfl

@[simp] theorem setIssued_pl_ownSS (p : MemPath) (l : List OwnAccess) : (p.setIssued .pl l).ownSS = p.ownSS := rfl

@[simp] theorem setIssued_cu_ownSS (p : MemPath) (l : List OwnAccess) : (p.setIssued .cu l).ownSS = p.ownSS := rfl

@[simp] theorem setIssued_rw_ownSS (p : MemPath) (l : List OwnAccess) : (p.setIssued .rw l).ownSS = p.ownSS := rfl

@[simp] theorem setIssued_ss_ownSS (p : MemPath) (l : List OwnAccess) : (p.setIssued .ss l).ownSS = l := rfl

@[simp] theorem issued_pl (p : MemPath) : p.issued .pl = p.ownPL := rfl

@[simp] theorem issued_cu (p : MemPath) : p.issued .cu = p.ownCU := rfl

@[simp] theorem issued_rw (p : MemPath) : p.issued .rw = p.ownRW := rfl

@[simp] theorem issued_ss (p : MemPath) : p.issued .ss = p.ownSS := rfl

@[simp] theorem issue_pending (s : State) (c : Client) (l : List OwnAccess) : (s.issue c l).pending = s.pending := rfl

@[simp] theorem issue_mem (s : State) (c : Client) (l : List OwnAccess) : (s.issue c l).mem = s.mem := rfl

@[simp] theorem issue_path (s : State) (c : Client) (l : List OwnAccess) : (s.issue c l).path = s.path.setIssued c (s.path.issued c ++ l) := rfl

@[simp] theorem issue_lines (s : State) (c : Client) (l : List OwnAccess) : (s.issue c l).lines = s.lines := rfl

@[simp] theorem issue_areas (s : State) (c : Client) (l : List OwnAccess) : (s.issue c l).areas = s.areas := rfl

@[simp] theorem issue_taps (s : State) (c : Client) (l : List OwnAccess) : (s.issue c l).taps = s.taps := rfl

@[simp] theorem issue_guards (s : State) (c : Client) (l : List OwnAccess) : (s.issue c l).guards = s.guards := rfl

@[simp] theorem issue_yieldLevel (s : State) (c : Client) (l : List OwnAccess) : (s.issue c l).yieldLevel = s.yieldLevel := rfl

@[simp] theorem issue_loader (s : State) (c : Client) (l : List OwnAccess) : (s.issue c l).loader = s.loader := rfl

@[simp] theorem issue_command (s : State) (c : Client) (l : List OwnAccess) : (s.issue c l).command = s.command := rfl

@[simp] theorem issue_watch (s : State) (c : Client) (l : List OwnAccess) : (s.issue c l).watch = s.watch := rfl

@[simp] theorem issue_writer (s : State) (c : Client) (l : List OwnAccess) : (s.issue c l).writer = s.writer := rfl

@[simp] theorem issue_store (s : State) (c : Client) (l : List OwnAccess) : (s.issue c l).store = s.store := rfl

@[simp] theorem issue_freeUsed (s : State) (c : Client) (l : List OwnAccess) : (s.issue c l).freeUsed = s.freeUsed := rfl

@[simp] theorem line_issue (s : State) (c : Client) (l : List OwnAccess) (k : Fin 24) : (s.issue c l).line k = s.line k := rfl

@[simp] theorem area_issue (s : State) (c : Client) (l : List OwnAccess) (k : Fin 8) : (s.issue c l).area k = s.area k := rfl

@[simp] theorem tap_issue (s : State) (c : Client) (l : List OwnAccess) (k : Fin 48) : (s.issue c l).tap k = s.tap k := rfl

@[simp] theorem guard_issue (s : State) (c : Client) (l : List OwnAccess) (k : Fin 48) : (s.issue c l).guard k = s.guard k := rfl

@[simp] theorem unit_issue (s : State) (c : Client) (l : List OwnAccess) (k : Fin 4) : (s.issue c l).unit k = s.unit k := rfl

end Sys2Proof.Machine
end

