-- ==== Sys2Proof/Laws/Frames.lean ====
section
/-!
SUPPORT. What each shared operation leaves alone, said once: `KeepsAllBut` with the parts it may touch. The lemmas build
a frame backwards, from the operation applied last.
-/
namespace Sys2Proof.Machine

theorem Same.refl (q : Part) (s : State) : Same q s s := by cases q <;> rfl

theorem Same.trans {q : Part} {s t u : State} (h : Same q s t) (k : Same q t u) : Same q s u := by
  cases q <;> exact Eq.trans k h

theorem KeepsAllBut.refl {c : List Part} (s : State) : KeepsAllBut c s s := fun q _ => Same.refl q s

theorem KeepsAllBut.trans {c : List Part} {s t u : State} (h : KeepsAllBut c s t) (k : KeepsAllBut c t u) :
    KeepsAllBut c s u := fun q hq => (h q hq).trans (k q hq)

theorem KeepsAllBut.mono {c d : List Part} {s t : State} (h : KeepsAllBut c s t) (hd : ∀ q ∈ c, q ∈ d) :
    KeepsAllBut d s t := fun q hq => h q fun hc => hq (hd q hc)

/-- A frame for the work done on every record of a list. -/
theorem KeepsAllBut.forEach {α : Type} {c : List Part} {f : α → State → State} {s t : State} (l : List α)
    (hf : ∀ x t, KeepsAllBut c s t → KeepsAllBut c s (f x t)) (h : KeepsAllBut c s t) :
    KeepsAllBut c s (forEach l f t) := by
  induction l generalizing t with
  | nil => exact h
  | cons x l ih => exact ih (hf x t h)

/-- What holds before and is kept by the work on each record holds after the work on all. -/
theorem forEach_keeps {α : Type} (P : State → Prop) {f : α → State → State} (l : List α) {s : State}
    (hf : ∀ x ∈ l, ∀ t, P t → P (f x t)) (h : P s) : P (forEach l f s) := by
  induction l generalizing s with
  | nil => exact h
  | cons x l ih => exact ih (fun y hy => hf y (by simp [hy])) (hf x (by simp) s h)

@[simp] theorem forEach_nil {α : Type} (f : α → State → State) (s : State) : forEach [] f s = s := rfl

@[simp] theorem forEach_cons {α : Type} (x : α) (l : List α) (f : α → State → State) (s : State) :
    forEach (x :: l) f s = forEach l f (f x s) := rfl

/-! ### Updates -/

theorem KeepsAllBut.memWrite {c : List Part} {s t : State} {a : Addr} {v : Word} (h : KeepsAllBut c s t)
    (hc : ∀ q ∈ [Part.mem], q ∈ c := by decide) : KeepsAllBut c s (t.memWrite a v) :=
  h.trans (KeepsAllBut.mono (c := [.mem]) (fun q hq => by cases q <;> first | rfl | simp at hq) hc)

theorem KeepsAllBut.setLine {c : List Part} {s t : State} {l : Fin 24} {r : LineRec} (h : KeepsAllBut c s t)
    (hc : ∀ q ∈ [Part.lines], q ∈ c := by decide) : KeepsAllBut c s (t.setLine l r) :=
  h.trans (KeepsAllBut.mono (c := [.lines]) (fun q hq => by cases q <;> first | rfl | simp at hq) hc)

theorem KeepsAllBut.setArea {c : List Part} {s t : State} {a : Fin 8} {r : AreaRec} (h : KeepsAllBut c s t)
    (hc : ∀ q ∈ [Part.areas], q ∈ c := by decide) : KeepsAllBut c s (t.setArea a r) :=
  h.trans (KeepsAllBut.mono (c := [.areas]) (fun q hq => by cases q <;> first | rfl | simp at hq) hc)

theorem KeepsAllBut.setTap {c : List Part} {s t : State} {z : Fin 48} {r : TapRec} (h : KeepsAllBut c s t)
    (hc : ∀ q ∈ [Part.taps], q ∈ c := by decide) : KeepsAllBut c s (t.setTap z r) :=
  h.trans (KeepsAllBut.mono (c := [.taps]) (fun q hq => by cases q <;> first | rfl | simp at hq) hc)

theorem KeepsAllBut.setGuard {c : List Part} {s t : State} {z : Fin 48} {r : GuardRec} (h : KeepsAllBut c s t)
    (hc : ∀ q ∈ [Part.guards], q ∈ c := by decide) : KeepsAllBut c s (t.setGuard z r) :=
  h.trans (KeepsAllBut.mono (c := [.guards]) (fun q hq => by cases q <;> first | rfl | simp at hq) hc)

theorem KeepsAllBut.setUnit {c : List Part} {s t : State} {u : Fin 4} {r : WatchUnit} (h : KeepsAllBut c s t)
    (hc : ∀ q ∈ [Part.watch], q ∈ c := by decide) : KeepsAllBut c s (t.setUnit u r) :=
  h.trans (KeepsAllBut.mono (c := [.watch]) (fun q hq => by cases q <;> first | rfl | simp at hq) hc)
/-- An update of PL's state touches no more than the fields that differ. -/
theorem KeepsAllBut.setLoader {c : List Part} {s t : State} {l : Loader} (h : KeepsAllBut c s t)
    (hl : KeepsAllBut c t (t.setLoader l)) : KeepsAllBut c s (t.setLoader l) := h.trans hl

theorem keeps_issue (s : State) (c : Client) (l : List OwnAccess) (q : Part)
    (hq : q ∉ [Part.ownPL, .ownCU, .ownRW, .ownSS]) : Same q s (s.issue c l) := by
  cases c <;> cases q <;> first | rfl | simp at hq

theorem KeepsAllBut.issueRW {c : List Part} {s t : State} {l : List OwnAccess} (h : KeepsAllBut c s t)
    (hc : Part.ownRW ∈ c := by decide) : KeepsAllBut c s (t.issue .rw l) :=
  h.trans fun q hq => by cases q <;> first | rfl | exact absurd hc hq

theorem KeepsAllBut.issuePL {c : List Part} {s t : State} {l : List OwnAccess} (h : KeepsAllBut c s t)
    (hc : Part.ownPL ∈ c := by decide) : KeepsAllBut c s (t.issue .pl l) :=
  h.trans fun q hq => by cases q <;> first | rfl | exact absurd hc hq

theorem KeepsAllBut.issueCU {c : List Part} {s t : State} {l : List OwnAccess} (h : KeepsAllBut c s t)
    (hc : Part.ownCU ∈ c := by decide) : KeepsAllBut c s (t.issue .cu l) :=
  h.trans fun q hq => by cases q <;> first | rfl | exact absurd hc hq

theorem KeepsAllBut.issueSS {c : List Part} {s t : State} {l : List OwnAccess} (h : KeepsAllBut c s t)
    (hc : Part.ownSS ∈ c := by decide) : KeepsAllBut c s (t.issue .ss l) :=
  h.trans fun q hq => by cases q <;> first | rfl | exact absurd hc hq

/-! ### RW's work, status changes, reports -/

theorem keeps_beginReport (s : State) : KeepsAllBut statusParts s s.beginReport := by
  unfold State.beginReport
  split
  · exact .refl s
  · exact fun q hq => by cases q <;> first | rfl | simp [statusParts] at hq

theorem keeps_issueStatus (s : State) : KeepsAllBut statusParts s s.issueStatus := by
  unfold State.issueStatus
  split
  · exact .refl s
  · exact fun q hq => by cases q <;> first | rfl | simp [statusParts] at hq

theorem keeps_reportFirst (s : State) : KeepsAllBut statusParts s s.reportFirst := by
  unfold State.reportFirst; split <;> first | exact keeps_issueStatus s | exact keeps_beginReport s

theorem keeps_statusFirst (s : State) : KeepsAllBut statusParts s s.statusFirst := by
  unfold State.statusFirst; split <;> first | exact keeps_issueStatus s | exact keeps_beginReport s

theorem keeps_chooseWork (s : State) : KeepsAllBut statusParts s s.chooseWork := by
  unfold State.chooseWork
  split
  · split <;> first | exact keeps_issueStatus s | exact keeps_reportFirst s
  · exact .refl s

theorem keeps_statusChanges (s : State) (offs : List Nat) : KeepsAllBut statusParts s (s.statusChanges offs) :=
  .trans (fun q hq => by cases q <;> first | rfl | simp [statusParts] at hq) (keeps_chooseWork _)

theorem keeps_request (s : State) (kind : ReportKind) (n : Nat) (a b : Word) :
    KeepsAllBut reportParts s (s.request kind n a b) := by
  unfold State.request
  split
  · exact .trans (fun q hq => by cases q <;> first | rfl | simp [reportParts] at hq)
      ((keeps_chooseWork _).mono (by decide))
  · exact .trans (fun q hq => by cases q <;> first | rfl | simp [reportParts] at hq)
      ((keeps_statusChanges _ _).mono (by decide))

theorem KeepsAllBut.statusChanges {c : List Part} {s t : State} {offs : List Nat} (h : KeepsAllBut c s t)
    (hc : ∀ q ∈ statusParts, q ∈ c := by decide) : KeepsAllBut c s (t.statusChanges offs) :=
  h.trans ((keeps_statusChanges t offs).mono hc)

theorem KeepsAllBut.statusChange {c : List Part} {s t : State} {off : Nat} (h : KeepsAllBut c s t)
    (hc : ∀ q ∈ statusParts, q ∈ c := by decide) : KeepsAllBut c s (t.statusChange off) := h.statusChanges hc

theorem KeepsAllBut.chooseWork {c : List Part} {s t : State} (h : KeepsAllBut c s t)
    (hc : ∀ q ∈ statusParts, q ∈ c := by decide) : KeepsAllBut c s t.chooseWork :=
  h.trans ((keeps_chooseWork t).mono hc)

theorem KeepsAllBut.request {c : List Part} {s t : State} {kind : ReportKind} {n : Nat} {a b : Word}
    (h : KeepsAllBut c s t) (hc : ∀ q ∈ reportParts, q ∈ c := by decide) :
    KeepsAllBut c s (t.request kind n a b) := h.trans ((keeps_request t kind n a b).mono hc)

theorem KeepsAllBut.foreignWrite {c : List Part} {s t : State} {n : Nat} {w : UpWord} (h : KeepsAllBut c s t)
    (hc : ∀ q ∈ reportParts, q ∈ c := by decide) : KeepsAllBut c s (t.foreignWrite n w) := h.request hc

/-! ### Tap engine -/

theorem KeepsAllBut.teBoundFailure {c : List Part} {s t : State} {z : Fin 48} {d : Nat} {x : Int} {b : Bound}
    (h : KeepsAllBut c s t) (hc : ∀ q ∈ Part.taps :: reportParts, q ∈ c := by decide) :
    KeepsAllBut c s (teBoundFailure z d x b t) := by
  have h1 : ∀ q ∈ [Part.taps], q ∈ c := fun q hq => hc q (by simp_all)
  have h2 : ∀ q ∈ reportParts, q ∈ c := fun q hq => hc q (by simp_all)
  unfold Machine.teBoundFailure
  cases b <;> dsimp only
  · exact h
  · split
    · exact h
    · exact (h.setTap h1).request h2
  · split
    · exact h
    · exact (h.setTap h1).request h2

theorem KeepsAllBut.teNotice {c : List Part} {s t : State} {z : Fin 48} {d : Nat}
    (h : KeepsAllBut c s t) (hc : ∀ q ∈ Part.taps :: statusParts, q ∈ c := by decide) :
    KeepsAllBut c s (teNotice z d t) := by
  have h1 : ∀ q ∈ [Part.taps], q ∈ c := fun q hq => hc q (by simp_all)
  have h2 : ∀ q ∈ statusParts, q ∈ c := fun q hq => hc q (by simp_all)
  unfold Machine.teNotice
  dsimp only
  split
  · exact h.setTap h1
  · exact (h.setTap h1).statusChange h2

theorem KeepsAllBut.teMark {c : List Part} {s t : State} {p : Plan}
    (h : KeepsAllBut c s t) (hc : ∀ q ∈ Part.taps :: statusParts, q ∈ c := by decide) :
    KeepsAllBut c s (teMark p t) := by
  have h1 : ∀ q ∈ [Part.taps], q ∈ c := fun q hq => hc q (by simp_all)
  have h2 : ∀ q ∈ statusParts, q ∈ c := fun q hq => hc q (by simp_all)
  refine .forEach _ (fun z u hu => ?_) h
  unfold teMarkZone
  dsimp only
  split
  · exact (hu.setTap h1).statusChange h2
  · exact hu.setTap h1

theorem KeepsAllBut.teSwap {c : List Part} {s t : State} {p : Plan}
    (h : KeepsAllBut c s t) (hc : ∀ q ∈ [Part.taps], q ∈ c := by decide) : KeepsAllBut c s (teSwap p t) :=
  .forEach _ (fun _ _ hu => hu.setTap hc) h

theorem KeepsAllBut.teSaturate {c : List Part} {s t : State} {z : Fin 48}
    (h : KeepsAllBut c s t) (hc : ∀ q ∈ [Part.taps], q ∈ c := by decide) : KeepsAllBut c s (teSaturate z t) :=
  h.setTap hc

/-! ### Source election unit -/

/-- What an area's decision may touch. -/
def decisionParts : List Part := .areas :: .taps :: reportParts

theorem KeepsAllBut.seSwitch {c : List Part} {s t : State} {p : Plan} {a : Fin 8} {r : AreaRec}
    {x : Option (Fin 8)} (h : KeepsAllBut c s t) (hc : ∀ q ∈ decisionParts, q ∈ c := by decide) :
    KeepsAllBut c s (seSwitch p a r x t) := by
  have h1 : ∀ q ∈ [Part.areas], q ∈ c := fun q hq => hc q (by simp_all [decisionParts])
  have h2 : ∀ q ∈ reportParts, q ∈ c := fun q hq => hc q (by simp_all [decisionParts])
  have h3 : ∀ q ∈ statusParts, q ∈ c := fun q hq =>
    h2 q (by revert q; decide)
  have h4 : ∀ q ∈ Part.taps :: statusParts, q ∈ c := fun q hq => hc q (by revert q; decide)
  unfold Machine.seSwitch
  dsimp only
  split
  · exact ((h.setArea h1).request h2).statusChange h3
  · exact .forEach _ (fun _ _ hu => hu.teNotice h4) (((h.setArea h1).request h2).statusChange h3)

theorem KeepsAllBut.seDecide {c : List Part} {s t : State} {p : Plan} {a : Fin 8}
    (h : KeepsAllBut c s t) (hc : ∀ q ∈ decisionParts, q ∈ c := by decide) : KeepsAllBut c s (seDecide p a t) := by
  have h1 : ∀ q ∈ [Part.areas], q ∈ c := fun q hq => hc q (by simp_all [decisionParts])
  unfold Machine.seDecide
  dsimp only
  split
  · exact h.setArea h1
  · split
    · exact h.setArea h1
    · exact h.seSwitch hc

theorem KeepsAllBut.seDecideAndEmpty {c : List Part} {s t : State} {p : Plan} {a : Fin 8}
    (h : KeepsAllBut c s t) (hc : ∀ q ∈ decisionParts, q ∈ c := by decide) :
    KeepsAllBut c s (Machine.seDecideAndEmpty p a t) :=
  (h.seDecide hc).setArea fun q hq => hc q (by simp_all [decisionParts])

theorem KeepsAllBut.seTake {c : List Part} {s t : State} {p : Plan} {a i : Fin 8} {m : Word} {l : Level}
    (h : KeepsAllBut c s t) (hc : ∀ q ∈ decisionParts, q ∈ c := by decide) :
    KeepsAllBut c s (seTake p a i m l t) := by
  have h1 : ∀ q ∈ [Part.areas], q ∈ c := fun q hq => hc q (by simp_all [decisionParts])
  unfold Machine.seTake
  split
  · dsimp only
    have hk : ∀ u, KeepsAllBut c s u → KeepsAllBut c s
        (if AreaRec.complete p a ((u.setArea a ((u.area a).filed i m l)).area a) then
          Machine.seDecideAndEmpty p a (u.setArea a ((u.area a).filed i m l)) else u.setArea a ((u.area a).filed i m l)) := by
      intro u hu
      split
      · exact (hu.setArea h1).seDecideAndEmpty hc
      · exact hu.setArea h1
    by_cases hcl : (t.area a).closedBy m = true
    · rw [if_pos hcl]; exact hk _ (h.seDecideAndEmpty hc)
    · rw [if_neg hcl]; exact hk _ h
  · exact h

theorem KeepsAllBut.sePin {c : List Part} {s t : State} {p : Plan} {a i : Fin 8}
    (h : KeepsAllBut c s t) (hc : ∀ q ∈ decisionParts, q ∈ c := by decide) : KeepsAllBut c s (sePin p a i t) := by
  have h1 : ∀ q ∈ [Part.areas], q ∈ c := fun q hq => hc q (by simp_all [decisionParts])
  have h3 : ∀ q ∈ statusParts, q ∈ c := fun q hq => hc q (by revert q; decide)
  unfold Machine.sePin
  dsimp only
  split
  · exact (h.setArea h1).statusChange h3
  · exact h.seSwitch hc

theorem KeepsAllBut.seFree {c : List Part} {s t : State} {a : Fin 8}
    (h : KeepsAllBut c s t) (hc : ∀ q ∈ Part.areas :: statusParts, q ∈ c := by decide) :
    KeepsAllBut c s (seFree a t) := by
  unfold Machine.seFree
  split
  · exact (h.setArea fun q hq => hc q (by simp_all)).statusChange fun q hq => hc q (by simp_all)
  · exact h

theorem KeepsAllBut.seArm {c : List Part} {s t : State} {p : Plan}
    (h : KeepsAllBut c s t) (hc : ∀ q ∈ Part.areas :: statusParts, q ∈ c := by decide) :
    KeepsAllBut c s (seArm p t) :=
  .forEach _ (fun _ _ hu =>
    (hu.setArea fun q hq => hc q (by simp_all)).statusChange fun q hq => hc q (by simp_all)) h

theorem KeepsAllBut.seDisarm {c : List Part} {s t : State} {p : Plan}
    (h : KeepsAllBut c s t) (hc : ∀ q ∈ Part.areas :: Part.taps :: statusParts, q ∈ c := by decide) :
    KeepsAllBut c s (seDisarm p t) :=
  .forEach _ (fun _ _ hu => hu.teNotice fun q hq => hc q (by revert q; decide))
    (.forEach _ (fun _ _ hu =>
      (hu.setArea fun q hq => hc q (by simp_all)).statusChange fun q hq => hc q (by simp_all)) h)

theorem KeepsAllBut.seSwap {c : List Part} {s t : State} {p q : Plan}
    (h : KeepsAllBut c s t) (hc : ∀ q ∈ [Part.areas], q ∈ c := by decide) : KeepsAllBut c s (seSwap p q t) :=
  .forEach _ (fun _ _ hu => hu.setArea hc) h

/-! ### Line tracker -/

theorem KeepsAllBut.ltWriterWrite {c : List Part} {s t : State} {p : Plan} {l : Fin 24} {o : Nat} {v : Word}
    (h : KeepsAllBut c s t) (hc : ∀ q ∈ Part.lines :: reportParts, q ∈ c := by decide) :
    KeepsAllBut c s (ltWriterWrite p l o v t) := by
  have h1 : ∀ q ∈ [Part.lines], q ∈ c := fun q hq => hc q (by simp_all)
  have h2 : ∀ q ∈ reportParts, q ∈ c := fun q hq => hc q (by simp_all)
  have h3 : ∀ q ∈ statusParts, q ∈ c := fun q hq => hc q (by revert q; decide)
  have hj : ∀ pos n r, KeepsAllBut c s (ltJump l pos n r t) := by
    intro pos n r
    unfold ltJump
    dsimp only
    split <;> first | exact h.setLine h1 | exact ((h.setLine h1).request h2).statusChange h3
  have ha : ∀ x r, KeepsAllBut c s (ltAccept p l x r t) := by
    intro x r
    unfold ltAccept
    dsimp only
    split
    · exact h.setLine h1
    · exact hj _ _ _
  have hr : ∀ e r, KeepsAllBut c s (ltResync l o e r t) := by
    intro e r
    unfold ltResync
    dsimp only
    have h4 : KeepsAllBut c s (t.setLine l (r.resynced o)) := h.setLine h1
    split <;> split <;> first
      | exact h4
      | exact h4.statusChange h3
      | exact h4.request h2
      | exact (h4.request h2).statusChange h3
  unfold Machine.ltWriterWrite
  dsimp only
  split
  · exact (h.setLine h1).statusChange h3
  all_goals split <;> first | exact ha _ _ | exact hr _ _

theorem KeepsAllBut.ltForeignWrite {c : List Part} {s t : State} {l : Fin 24} {w : UpWord}
    (h : KeepsAllBut c s t) (hc : ∀ q ∈ Part.lines :: reportParts, q ∈ c := by decide) :
    KeepsAllBut c s (ltForeignWrite l w t) := by
  unfold Machine.ltForeignWrite
  split
  · exact h
  · exact (h.setLine fun q hq => hc q (by simp_all)).foreignWrite fun q hq => hc q (by simp_all)

theorem KeepsAllBut.ltClear {c : List Part} {s t : State} {l : Fin 24}
    (h : KeepsAllBut c s t) (hc : ∀ q ∈ Part.lines :: statusParts, q ∈ c := by decide) :
    KeepsAllBut c s (ltClear l t) := by
  unfold Machine.ltClear
  dsimp only
  split
  · exact (h.setLine fun q hq => hc q (by simp_all)).statusChange fun q hq => hc q (by simp_all)
  · exact h

/-- What LT's work at a mark may touch, with SE's decisions. -/
def markParts : List Part := .lines :: decisionParts

theorem KeepsAllBut.ltMark {c : List Part} {s t : State} {p : Plan} {m : Word}
    (h : KeepsAllBut c s t) (hc : ∀ q ∈ markParts, q ∈ c := by decide) : KeepsAllBut c s (ltMark p m t) := by
  have h1 : ∀ q ∈ [Part.lines], q ∈ c := fun q hq => hc q (by revert q; decide)
  have h2 : ∀ q ∈ reportParts, q ∈ c := fun q hq => hc q (by revert q; decide)
  have h3 : ∀ q ∈ statusParts, q ∈ c := fun q hq => hc q (by revert q; decide)
  have h4 : ∀ q ∈ decisionParts, q ∈ c := fun q hq => hc q (by revert q; decide)
  refine .forEach _ (fun _ _ hu => hu.setLine h1) (.forEach _ (fun l u hu => ?_) (.forEach _ (fun l u hu => ?_) h))
  · unfold ltReports
    split
    · refine .forEach _ (fun a u hu => ?_) hu
      unfold ltReportTo
      split
      · exact hu
      · exact hu.seTake h4
    · exact hu
  · unfold ltMarkLine
    dsimp only
    split
    · exact hu
    · exact (hu.setLine h1).statusChange h3
    · exact hu.setLine h1
    · split
      · split
        · exact ((hu.setLine h1).request h2).statusChange h3
        · exact hu.setLine h1
      · exact hu.setLine h1

/-! ### Zone output controller -/

/-- What ZC's work on zones may touch. -/
def zoneParts : List Part := .guards :: reportParts

theorem KeepsAllBut.zcMarkZone {c : List Part} {s t : State} {p : Plan} {z : Fin 48}
    (h : KeepsAllBut c s t) (hc : ∀ q ∈ zoneParts, q ∈ c := by decide) : KeepsAllBut c s (zcMarkZone p z t) := by
  have h1 : ∀ q ∈ [Part.guards], q ∈ c := fun q hq => hc q (by revert q; decide)
  have h2 : ∀ q ∈ reportParts, q ∈ c := fun q hq => hc q (by revert q; decide)
  have h3 : ∀ q ∈ statusParts, q ∈ c := fun q hq => hc q (by revert q; decide)
  have hl : KeepsAllBut c s (zcLapse z t) := by
    unfold zcLapse
    dsimp only
    split
    · exact h.setGuard h1
    · split
      · split
        · exact h.setGuard h1
        · exact (h.setGuard h1).statusChange h3
      · exact ((h.setGuard h1).request h2).statusChange h3
  unfold Machine.zcMarkZone
  split
  · unfold zcFed
    dsimp only
    split
    · exact h.setGuard h1
    · exact (h.setGuard h1).statusChange h3
    · exact (h.setGuard h1).statusChange h3
    · exact ((h.setGuard h1).request h2).statusChange h3
  · unfold zcUnfed
    dsimp only
    split
    · exact h.setGuard h1
    · exact hl
    · exact hl
    · split <;> exact h.setGuard h1

theorem KeepsAllBut.zcMark {c : List Part} {s t : State} {p : Plan}
    (h : KeepsAllBut c s t) (hc : ∀ q ∈ zoneParts, q ∈ c := by decide) : KeepsAllBut c s (zcMark p t) :=
  .forEach _ (fun _ _ hu => hu.zcMarkZone hc) h

theorem KeepsAllBut.zcMute {c : List Part} {s t : State} {b : Bool} {z : Fin 48}
    (h : KeepsAllBut c s t) (hc : ∀ q ∈ Part.guards :: statusParts, q ∈ c := by decide) :
    KeepsAllBut c s (zcMute b z t) := by
  unfold Machine.zcMute
  split
  · exact h
  · exact (h.setGuard fun q hq => hc q (by simp_all)).statusChange fun q hq => hc q (by simp_all)

theorem KeepsAllBut.zcProof {c : List Part} {s t : State} {b : Bool} {z : Fin 48}
    (h : KeepsAllBut c s t) (hc : ∀ q ∈ Part.guards :: statusParts, q ∈ c := by decide) :
    KeepsAllBut c s (zcProof b z t) := by
  unfold Machine.zcProof
  split
  · exact h
  · exact (h.setGuard fun q hq => hc q (by simp_all)).statusChange fun q hq => hc q (by simp_all)

theorem KeepsAllBut.zcEdgeZones {c : List Part} {s t : State} {b : Bool}
    (h : KeepsAllBut c s t) (hc : ∀ q ∈ Part.guards :: statusParts, q ∈ c := by decide) :
    KeepsAllBut c s (zcEdgeZones b t) := by
  have h1 : ∀ q ∈ [Part.guards], q ∈ c := fun q hq => hc q (by simp_all)
  have h3 : ∀ q ∈ statusParts, q ∈ c := fun q hq => hc q (by simp_all)
  unfold Machine.zcEdgeZones
  split
  · exact h
  · refine .forEach _ (fun z u hu => ?_) h
    split
    · unfold zcAssertZone
      dsimp only
      split
      · exact hu
      · exact (hu.setGuard h1).statusChange h3
    · unfold zcDeassertZone
      dsimp only
      split
      · exact (hu.setGuard h1).statusChange h3
      · exact hu

theorem KeepsAllBut.zcEdge {c : List Part} {s t : State} {b : Bool}
    (h : KeepsAllBut c s t) (hc : ∀ q ∈ Part.yieldLevel :: zoneParts, q ∈ c := by decide) :
    KeepsAllBut c s (zcEdge b t) := by
  have h2 : ∀ q ∈ reportParts, q ∈ c := fun q hq => hc q (by revert q; decide)
  have h3 : ∀ q ∈ statusParts, q ∈ c := fun q hq => hc q (by revert q; decide)
  have h4 : ∀ q ∈ Part.guards :: statusParts, q ∈ c := fun q hq => hc q (by revert q; decide)
  have h0 : KeepsAllBut c s { t with yieldLevel := b } := h.trans fun q hq => by
    cases q <;> first | rfl | exact absurd (hc .yieldLevel (by decide)) hq
  have h5 : KeepsAllBut c s ((Machine.zcEdgeZones b { t with yieldLevel := b }).statusChange 21) :=
    (h0.zcEdgeZones h4).statusChange h3
  unfold Machine.zcEdge
  split
  · exact h
  · dsimp only
    split
    · exact h5
    · exact h5.request h2

theorem KeepsAllBut.zcEntryChange {c : List Part} {s t : State} {old : SafetyStore} {z : Fin 48}
    (h : KeepsAllBut c s t) (hc : ∀ q ∈ Part.guards :: statusParts, q ∈ c := by decide) :
    KeepsAllBut c s (zcEntryChange old z t) := by
  have h1 : ∀ q ∈ [Part.guards], q ∈ c := fun q hq => hc q (by simp_all)
  have h3 : ∀ q ∈ statusParts, q ∈ c := fun q hq => hc q (by simp_all)
  unfold Machine.zcEntryChange
  dsimp only
  split
  · exact h.setGuard h1
  · exact (h.setGuard h1).statusChange h3

theorem KeepsAllBut.zcEntryChangeOf {c : List Part} {s t : State} {old : SafetyStore} {z : Fin 48}
    (h : KeepsAllBut c s t) (hc : ∀ q ∈ Part.guards :: statusParts, q ∈ c := by decide) :
    KeepsAllBut c s (zcEntryChangeOf old z t) := by
  unfold Machine.zcEntryChangeOf
  split
  · exact h.zcEntryChange hc
  · exact h

theorem KeepsAllBut.zcAllEntriesChange {c : List Part} {s t : State} {old : SafetyStore}
    (h : KeepsAllBut c s t) (hc : ∀ q ∈ Part.guards :: statusParts, q ∈ c := by decide) :
    KeepsAllBut c s (zcAllEntriesChange old t) := by
  unfold Machine.zcAllEntriesChange
  split
  · exact h
  · exact .forEach _ (fun _ _ hu => hu.zcEntryChange hc) h

/-! ### Safety store -/

/-- What the end of a programming may touch. -/
def programmedParts : List Part := .words :: .storeCond :: .programming :: zoneParts

theorem keeps_setStore (s : State) (t : SafetyStore) :
    KeepsAllBut [.words, .storeCond, .programming, .permit, .imageCursor, .checkPending] s (s.setStore t) :=
  fun q hq => by cases q <;> first | rfl | simp at hq

theorem keeps_ssEntryProgrammed (s : State) (i : Fin 193) (v : Word) :
    KeepsAllBut programmedParts s (ssEntryProgrammed i v s) := by
  have h0 : KeepsAllBut programmedParts s
      ((s.setStore { s.store.programmed i v with cond := s.store.cond.unsealed' }).statusChange 20) :=
    .statusChange fun q hq => by cases q <;> first | rfl | exact absurd (by decide) hq
  unfold ssEntryProgrammed
  dsimp only
  split
  · exact h0.request
  · exact (h0.zcEntryChangeOf).request

theorem keeps_ssChecksumProgrammed (s : State) (i : Fin 193) (v : Word) :
    KeepsAllBut programmedParts s (ssChecksumProgrammed i v s) := by
  have h0 : KeepsAllBut programmedParts s
      ((s.setStore { s.store.programmed i v with cond := (s.store.programmed i v).checkResult }).statusChange 20) :=
    .statusChange fun q hq => by cases q <;> first | rfl | exact absurd (by decide) hq
  unfold ssChecksumProgrammed
  dsimp only
  split
  · exact h0.request.request
  · exact (h0.zcAllEntriesChange).request.request

theorem keeps_ssPermitRequest (s : State) (n : Word) :
    KeepsAllBut (.permit :: reportParts) s (ssPermitRequest n s) := by
  have hp : ∀ x, KeepsAllBut (.permit :: reportParts) s (s.setStore { s.store with permit := x }) := fun x q hq => by
    cases q <;> first | rfl | exact absurd (by decide) hq
  unfold ssPermitRequest
  split
  · exact (KeepsAllBut.refl s).request
  · split
    · split
      · exact .refl s
      · exact (hp _).statusChange
    · dsimp only
      split
      · exact (hp _).request.statusChange
      · exact (hp _).request

theorem keeps_ssProgramRequest (s : State) (i : Fin 193) (v : Word) (w : UpWord) :
    KeepsAllBut (.permit :: .programming :: reportParts) s (ssProgramRequest i v w s).1 := by
  unfold ssProgramRequest
  split
  · exact (KeepsAllBut.refl s).request
  · split
    · exact (KeepsAllBut.refl s).request
    · split
      · exact .statusChange fun q hq => by cases q <;> first | rfl | exact absurd (by decide) hq
      · exact .statusChange (.request fun q hq => by cases q <;> first | rfl | exact absurd (by decide) hq)

/-! ### Address watch -/

/-- What AW's work may touch. -/
def watchParts : List Part := .watch :: reportParts

theorem KeepsAllBut.awHit {c : List Part} {s t : State} {w : UpWord} {u : Fin 4}
    (h : KeepsAllBut c s t) (hc : ∀ q ∈ watchParts, q ∈ c := by decide) : KeepsAllBut c s (awHit w u t) := by
  have h1 : ∀ q ∈ [Part.watch], q ∈ c := fun q hq => hc q (by revert q; decide)
  have h2 : ∀ q ∈ reportParts, q ∈ c := fun q hq => hc q (by revert q; decide)
  have h3 : ∀ q ∈ statusParts, q ∈ c := fun q hq => hc q (by revert q; decide)
  unfold Machine.awHit
  dsimp only
  split
  · exact (h.setUnit h1).statusChanges h3
  · exact ((h.setUnit h1).statusChanges h3).request h2

theorem KeepsAllBut.awLook {c : List Part} {s t : State} {w : UpWord}
    (h : KeepsAllBut c s t) (hc : ∀ q ∈ watchParts, q ∈ c := by decide) : KeepsAllBut c s (awLook w t) :=
  .forEach _ (fun _ _ hu => hu.awHit hc) h

theorem KeepsAllBut.awData {c : List Part} {s t : State} {x : Option Word} {u : Fin 4}
    (h : KeepsAllBut c s t) (hc : ∀ q ∈ Part.watch :: statusParts, q ∈ c := by decide) :
    KeepsAllBut c s (awData x u t) :=
  (h.setUnit fun q hq => hc q (by simp_all)).statusChanges fun q hq => hc q (by simp_all)

theorem KeepsAllBut.awTurnOff {c : List Part} {s t : State} {u : Fin 4}
    (h : KeepsAllBut c s t) (hc : ∀ q ∈ Part.watch :: statusParts, q ∈ c := by decide) :
    KeepsAllBut c s (awTurnOff u t) := by
  unfold Machine.awTurnOff
  dsimp only
  split
  · exact (h.setUnit fun q hq => hc q (by simp_all)).statusChanges fun q hq => hc q (by simp_all)
  · exact h

theorem KeepsAllBut.awCommand {c : List Part} {s t : State} {o : Vector Word 4}
    (h : KeepsAllBut c s t) (hc : ∀ q ∈ Part.watch :: statusParts, q ∈ c := by decide) :
    KeepsAllBut c s (awCommand o t) := by
  have h1 : ∀ q ∈ [Part.watch], q ∈ c := fun q hq => hc q (by simp_all)
  have h3 : ∀ q ∈ statusParts, q ∈ c := fun q hq => hc q (by simp_all)
  unfold Machine.awCommand
  dsimp only
  split
  · exact h
  · unfold awSet
    dsimp only
    split
    · exact h
    · exact (h.setUnit h1).statusChanges h3
  · exact h.awTurnOff hc
  · unfold awResetHits
    dsimp only
    split
    · exact h
    · exact (h.setUnit h1).statusChanges h3

theorem KeepsAllBut.awDisarm {c : List Part} {s t : State}
    (h : KeepsAllBut c s t) (hc : ∀ q ∈ Part.watch :: statusParts, q ∈ c := by decide) :
    KeepsAllBut c s (awDisarm t) :=
  .forEach _ (fun _ _ hu => hu.awTurnOff hc) h

end Sys2Proof.Machine
end

