-- ==== Sys2Proof/Laws/Reports.lean ====
section
/-!
SUPPORT. What a report request and a status change do: the fields they leave alone, and what they make of RW
(`Asks`, `Reported`, `Marked`).
-/
namespace Sys2Proof.Machine

@[simp] theorem beginReport_pending (s : State) : (s.beginReport).pending = s.pending := by
  unfold State.beginReport; split <;> rfl

@[simp] theorem issueStatus_pending (s : State) : (s.issueStatus).pending = s.pending := by
  unfold State.issueStatus; split <;> rfl

@[simp] theorem chooseWork_pending (s : State) : (s.chooseWork).pending = s.pending := by
  unfold State.chooseWork State.reportFirst; repeat' split
  all_goals first | rfl | simp only [issueStatus_pending] | simp only [beginReport_pending]

@[simp] theorem statusFirst_pending (s : State) : (s.statusFirst).pending = s.pending := by
  unfold State.statusFirst; split <;> simp

@[simp] theorem statusChanges_pending (s : State) (l : List Nat) : (s.statusChanges l).pending = s.pending := by
  unfold State.statusChanges; simp

@[simp] theorem statusChange_pending (s : State) (off : Nat) : (s.statusChange off).pending = s.pending := by
  unfold State.statusChange; simp

@[simp] theorem request_pending (s : State) (k : ReportKind) (n : Nat) (a b : Word) : (s.request k n a b).pending = s.pending := by
  unfold State.request; split <;> simp

@[simp] theorem foreignWrite_pending (s : State) (n : Nat) (w : UpWord) : (s.foreignWrite n w).pending = s.pending := by
  unfold State.foreignWrite; simp

@[simp] theorem beginReport_mem (s : State) : (s.beginReport).mem = s.mem := by
  unfold State.beginReport; split <;> rfl

@[simp] theorem issueStatus_mem (s : State) : (s.issueStatus).mem = s.mem := by
  unfold State.issueStatus; split <;> rfl

@[simp] theorem chooseWork_mem (s : State) : (s.chooseWork).mem = s.mem := by
  unfold State.chooseWork State.reportFirst; repeat' split
  all_goals first | rfl | simp only [issueStatus_mem] | simp only [beginReport_mem]

@[simp] theorem statusFirst_mem (s : State) : (s.statusFirst).mem = s.mem := by
  unfold State.statusFirst; split <;> simp

@[simp] theorem statusChanges_mem (s : State) (l : List Nat) : (s.statusChanges l).mem = s.mem := by
  unfold State.statusChanges; simp

@[simp] theorem statusChange_mem (s : State) (off : Nat) : (s.statusChange off).mem = s.mem := by
  unfold State.statusChange; simp

@[simp] theorem request_mem (s : State) (k : ReportKind) (n : Nat) (a b : Word) : (s.request k n a b).mem = s.mem := by
  unfold State.request; split <;> simp

@[simp] theorem foreignWrite_mem (s : State) (n : Nat) (w : UpWord) : (s.foreignWrite n w).mem = s.mem := by
  unfold State.foreignWrite; simp

@[simp] theorem beginReport_lines (s : State) : (s.beginReport).lines = s.lines := by
  unfold State.beginReport; split <;> rfl

@[simp] theorem issueStatus_lines (s : State) : (s.issueStatus).lines = s.lines := by
  unfold State.issueStatus; split <;> rfl

@[simp] theorem chooseWork_lines (s : State) : (s.chooseWork).lines = s.lines := by
  unfold State.chooseWork State.reportFirst; repeat' split
  all_goals first | rfl | simp only [issueStatus_lines] | simp only [beginReport_lines]

@[simp] theorem statusFirst_lines (s : State) : (s.statusFirst).lines = s.lines := by
  unfold State.statusFirst; split <;> simp

@[simp] theorem statusChanges_lines (s : State) (l : List Nat) : (s.statusChanges l).lines = s.lines := by
  unfold State.statusChanges; simp

@[simp] theorem statusChange_lines (s : State) (off : Nat) : (s.statusChange off).lines = s.lines := by
  unfold State.statusChange; simp

@[simp] theorem request_lines (s : State) (k : ReportKind) (n : Nat) (a b : Word) : (s.request k n a b).lines = s.lines := by
  unfold State.request; split <;> simp

@[simp] theorem foreignWrite_lines (s : State) (n : Nat) (w : UpWord) : (s.foreignWrite n w).lines = s.lines := by
  unfold State.foreignWrite; simp

@[simp] theorem beginReport_areas (s : State) : (s.beginReport).areas = s.areas := by
  unfold State.beginReport; split <;> rfl

@[simp] theorem issueStatus_areas (s : State) : (s.issueStatus).areas = s.areas := by
  unfold State.issueStatus; split <;> rfl

@[simp] theorem chooseWork_areas (s : State) : (s.chooseWork).areas = s.areas := by
  unfold State.chooseWork State.reportFirst; repeat' split
  all_goals first | rfl | simp only [issueStatus_areas] | simp only [beginReport_areas]

@[simp] theorem statusFirst_areas (s : State) : (s.statusFirst).areas = s.areas := by
  unfold State.statusFirst; split <;> simp

@[simp] theorem statusChanges_areas (s : State) (l : List Nat) : (s.statusChanges l).areas = s.areas := by
  unfold State.statusChanges; simp

@[simp] theorem statusChange_areas (s : State) (off : Nat) : (s.statusChange off).areas = s.areas := by
  unfold State.statusChange; simp

@[simp] theorem request_areas (s : State) (k : ReportKind) (n : Nat) (a b : Word) : (s.request k n a b).areas = s.areas := by
  unfold State.request; split <;> simp

@[simp] theorem foreignWrite_areas (s : State) (n : Nat) (w : UpWord) : (s.foreignWrite n w).areas = s.areas := by
  unfold State.foreignWrite; simp

@[simp] theorem beginReport_taps (s : State) : (s.beginReport).taps = s.taps := by
  unfold State.beginReport; split <;> rfl

@[simp] theorem issueStatus_taps (s : State) : (s.issueStatus).taps = s.taps := by
  unfold State.issueStatus; split <;> rfl

@[simp] theorem chooseWork_taps (s : State) : (s.chooseWork).taps = s.taps := by
  unfold State.chooseWork State.reportFirst; repeat' split
  all_goals first | rfl | simp only [issueStatus_taps] | simp only [beginReport_taps]

@[simp] theorem statusFirst_taps (s : State) : (s.statusFirst).taps = s.taps := by
  unfold State.statusFirst; split <;> simp

@[simp] theorem statusChanges_taps (s : State) (l : List Nat) : (s.statusChanges l).taps = s.taps := by
  unfold State.statusChanges; simp

@[simp] theorem statusChange_taps (s : State) (off : Nat) : (s.statusChange off).taps = s.taps := by
  unfold State.statusChange; simp

@[simp] theorem request_taps (s : State) (k : ReportKind) (n : Nat) (a b : Word) : (s.request k n a b).taps = s.taps := by
  unfold State.request; split <;> simp

@[simp] theorem foreignWrite_taps (s : State) (n : Nat) (w : UpWord) : (s.foreignWrite n w).taps = s.taps := by
  unfold State.foreignWrite; simp

@[simp] theorem beginReport_guards (s : State) : (s.beginReport).guards = s.guards := by
  unfold State.beginReport; split <;> rfl

@[simp] theorem issueStatus_guards (s : State) : (s.issueStatus).guards = s.guards := by
  unfold State.issueStatus; split <;> rfl

@[simp] theorem chooseWork_guards (s : State) : (s.chooseWork).guards = s.guards := by
  unfold State.chooseWork State.reportFirst; repeat' split
  all_goals first | rfl | simp only [issueStatus_guards] | simp only [beginReport_guards]

@[simp] theorem statusFirst_guards (s : State) : (s.statusFirst).guards = s.guards := by
  unfold State.statusFirst; split <;> simp

@[simp] theorem statusChanges_guards (s : State) (l : List Nat) : (s.statusChanges l).guards = s.guards := by
  unfold State.statusChanges; simp

@[simp] theorem statusChange_guards (s : State) (off : Nat) : (s.statusChange off).guards = s.guards := by
  unfold State.statusChange; simp

@[simp] theorem request_guards (s : State) (k : ReportKind) (n : Nat) (a b : Word) : (s.request k n a b).guards = s.guards := by
  unfold State.request; split <;> simp

@[simp] theorem foreignWrite_guards (s : State) (n : Nat) (w : UpWord) : (s.foreignWrite n w).guards = s.guards := by
  unfold State.foreignWrite; simp

@[simp] theorem beginReport_yieldLevel (s : State) : (s.beginReport).yieldLevel = s.yieldLevel := by
  unfold State.beginReport; split <;> rfl

@[simp] theorem issueStatus_yieldLevel (s : State) : (s.issueStatus).yieldLevel = s.yieldLevel := by
  unfold State.issueStatus; split <;> rfl

@[simp] theorem chooseWork_yieldLevel (s : State) : (s.chooseWork).yieldLevel = s.yieldLevel := by
  unfold State.chooseWork State.reportFirst; repeat' split
  all_goals first | rfl | simp only [issueStatus_yieldLevel] | simp only [beginReport_yieldLevel]

@[simp] theorem statusFirst_yieldLevel (s : State) : (s.statusFirst).yieldLevel = s.yieldLevel := by
  unfold State.statusFirst; split <;> simp

@[simp] theorem statusChanges_yieldLevel (s : State) (l : List Nat) : (s.statusChanges l).yieldLevel = s.yieldLevel := by
  unfold State.statusChanges; simp

@[simp] theorem statusChange_yieldLevel (s : State) (off : Nat) : (s.statusChange off).yieldLevel = s.yieldLevel := by
  unfold State.statusChange; simp

@[simp] theorem request_yieldLevel (s : State) (k : ReportKind) (n : Nat) (a b : Word) : (s.request k n a b).yieldLevel = s.yieldLevel := by
  unfold State.request; split <;> simp

@[simp] theorem foreignWrite_yieldLevel (s : State) (n : Nat) (w : UpWord) : (s.foreignWrite n w).yieldLevel = s.yieldLevel := by
  unfold State.foreignWrite; simp

@[simp] theorem beginReport_loader (s : State) : (s.beginReport).loader = s.loader := by
  unfold State.beginReport; split <;> rfl

@[simp] theorem issueStatus_loader (s : State) : (s.issueStatus).loader = s.loader := by
  unfold State.issueStatus; split <;> rfl

@[simp] theorem chooseWork_loader (s : State) : (s.chooseWork).loader = s.loader := by
  unfold State.chooseWork State.reportFirst; repeat' split
  all_goals first | rfl | simp only [issueStatus_loader] | simp only [beginReport_loader]

@[simp] theorem statusFirst_loader (s : State) : (s.statusFirst).loader = s.loader := by
  unfold State.statusFirst; split <;> simp

@[simp] theorem statusChanges_loader (s : State) (l : List Nat) : (s.statusChanges l).loader = s.loader := by
  unfold State.statusChanges; simp

@[simp] theorem statusChange_loader (s : State) (off : Nat) : (s.statusChange off).loader = s.loader := by
  unfold State.statusChange; simp

@[simp] theorem request_loader (s : State) (k : ReportKind) (n : Nat) (a b : Word) : (s.request k n a b).loader = s.loader := by
  unfold State.request; split <;> simp

@[simp] theorem foreignWrite_loader (s : State) (n : Nat) (w : UpWord) : (s.foreignWrite n w).loader = s.loader := by
  unfold State.foreignWrite; simp

@[simp] theorem beginReport_command (s : State) : (s.beginReport).command = s.command := by
  unfold State.beginReport; split <;> rfl

@[simp] theorem issueStatus_command (s : State) : (s.issueStatus).command = s.command := by
  unfold State.issueStatus; split <;> rfl

@[simp] theorem chooseWork_command (s : State) : (s.chooseWork).command = s.command := by
  unfold State.chooseWork State.reportFirst; repeat' split
  all_goals first | rfl | simp only [issueStatus_command] | simp only [beginReport_command]

@[simp] theorem statusFirst_command (s : State) : (s.statusFirst).command = s.command := by
  unfold State.statusFirst; split <;> simp

@[simp] theorem statusChanges_command (s : State) (l : List Nat) : (s.statusChanges l).command = s.command := by
  unfold State.statusChanges; simp

@[simp] theorem statusChange_command (s : State) (off : Nat) : (s.statusChange off).command = s.command := by
  unfold State.statusChange; simp

@[simp] theorem request_command (s : State) (k : ReportKind) (n : Nat) (a b : Word) : (s.request k n a b).command = s.command := by
  unfold State.request; split <;> simp

@[simp] theorem foreignWrite_command (s : State) (n : Nat) (w : UpWord) : (s.foreignWrite n w).command = s.command := by
  unfold State.foreignWrite; simp

@[simp] theorem beginReport_watch (s : State) : (s.beginReport).watch = s.watch := by
  unfold State.beginReport; split <;> rfl

@[simp] theorem issueStatus_watch (s : State) : (s.issueStatus).watch = s.watch := by
  unfold State.issueStatus; split <;> rfl

@[simp] theorem chooseWork_watch (s : State) : (s.chooseWork).watch = s.watch := by
  unfold State.chooseWork State.reportFirst; repeat' split
  all_goals first | rfl | simp only [issueStatus_watch] | simp only [beginReport_watch]

@[simp] theorem statusFirst_watch (s : State) : (s.statusFirst).watch = s.watch := by
  unfold State.statusFirst; split <;> simp

@[simp] theorem statusChanges_watch (s : State) (l : List Nat) : (s.statusChanges l).watch = s.watch := by
  unfold State.statusChanges; simp

@[simp] theorem statusChange_watch (s : State) (off : Nat) : (s.statusChange off).watch = s.watch := by
  unfold State.statusChange; simp

@[simp] theorem request_watch (s : State) (k : ReportKind) (n : Nat) (a b : Word) : (s.request k n a b).watch = s.watch := by
  unfold State.request; split <;> simp

@[simp] theorem foreignWrite_watch (s : State) (n : Nat) (w : UpWord) : (s.foreignWrite n w).watch = s.watch := by
  unfold State.foreignWrite; simp

@[simp] theorem beginReport_store (s : State) : (s.beginReport).store = s.store := by
  unfold State.beginReport; split <;> rfl

@[simp] theorem issueStatus_store (s : State) : (s.issueStatus).store = s.store := by
  unfold State.issueStatus; split <;> rfl

@[simp] theorem chooseWork_store (s : State) : (s.chooseWork).store = s.store := by
  unfold State.chooseWork State.reportFirst; repeat' split
  all_goals first | rfl | simp only [issueStatus_store] | simp only [beginReport_store]

@[simp] theorem statusFirst_store (s : State) : (s.statusFirst).store = s.store := by
  unfold State.statusFirst; split <;> simp

@[simp] theorem statusChanges_store (s : State) (l : List Nat) : (s.statusChanges l).store = s.store := by
  unfold State.statusChanges; simp

@[simp] theorem statusChange_store (s : State) (off : Nat) : (s.statusChange off).store = s.store := by
  unfold State.statusChange; simp

@[simp] theorem request_store (s : State) (k : ReportKind) (n : Nat) (a b : Word) : (s.request k n a b).store = s.store := by
  unfold State.request; split <;> simp

@[simp] theorem foreignWrite_store (s : State) (n : Nat) (w : UpWord) : (s.foreignWrite n w).store = s.store := by
  unfold State.foreignWrite; simp

@[simp] theorem beginReport_freeUsed (s : State) : (s.beginReport).freeUsed = s.freeUsed := by
  unfold State.beginReport; split <;> rfl

@[simp] theorem issueStatus_freeUsed (s : State) : (s.issueStatus).freeUsed = s.freeUsed := by
  unfold State.issueStatus; split <;> rfl

@[simp] theorem chooseWork_freeUsed (s : State) : (s.chooseWork).freeUsed = s.freeUsed := by
  unfold State.chooseWork State.reportFirst; repeat' split
  all_goals first | rfl | simp only [issueStatus_freeUsed] | simp only [beginReport_freeUsed]

@[simp] theorem statusFirst_freeUsed (s : State) : (s.statusFirst).freeUsed = s.freeUsed := by
  unfold State.statusFirst; split <;> simp

@[simp] theorem statusChanges_freeUsed (s : State) (l : List Nat) : (s.statusChanges l).freeUsed = s.freeUsed := by
  unfold State.statusChanges; simp

@[simp] theorem statusChange_freeUsed (s : State) (off : Nat) : (s.statusChange off).freeUsed = s.freeUsed := by
  unfold State.statusChange; simp

@[simp] theorem request_freeUsed (s : State) (k : ReportKind) (n : Nat) (a b : Word) : (s.request k n a b).freeUsed = s.freeUsed := by
  unfold State.request; split <;> simp

@[simp] theorem foreignWrite_freeUsed (s : State) (n : Nat) (w : UpWord) : (s.foreignWrite n w).freeUsed = s.freeUsed := by
  unfold State.foreignWrite; simp

@[simp] theorem beginReport_path_straps (s : State) : (s.beginReport).path.straps = s.path.straps := by
  unfold State.beginReport; split <;> rfl

@[simp] theorem issueStatus_path_straps (s : State) : (s.issueStatus).path.straps = s.path.straps := by
  unfold State.issueStatus; split <;> rfl

@[simp] theorem chooseWork_path_straps (s : State) : (s.chooseWork).path.straps = s.path.straps := by
  unfold State.chooseWork State.reportFirst; repeat' split
  all_goals first | rfl | simp only [issueStatus_path_straps] | simp only [beginReport_path_straps]

@[simp] theorem statusFirst_path_straps (s : State) : (s.statusFirst).path.straps = s.path.straps := by
  unfold State.statusFirst; split <;> simp

@[simp] theorem statusChanges_path_straps (s : State) (l : List Nat) : (s.statusChanges l).path.straps = s.path.straps := by
  unfold State.statusChanges; simp

@[simp] theorem statusChange_path_straps (s : State) (off : Nat) : (s.statusChange off).path.straps = s.path.straps := by
  unfold State.statusChange; simp

@[simp] theorem request_path_straps (s : State) (k : ReportKind) (n : Nat) (a b : Word) : (s.request k n a b).path.straps = s.path.straps := by
  unfold State.request; split <;> simp

@[simp] theorem foreignWrite_path_straps (s : State) (n : Nat) (w : UpWord) : (s.foreignWrite n w).path.straps = s.path.straps := by
  unfold State.foreignWrite; simp

@[simp] theorem beginReport_path_resetHeld (s : State) : (s.beginReport).path.resetHeld = s.path.resetHeld := by
  unfold State.beginReport; split <;> rfl

@[simp] theorem issueStatus_path_resetHeld (s : State) : (s.issueStatus).path.resetHeld = s.path.resetHeld := by
  unfold State.issueStatus; split <;> rfl

@[simp] theorem chooseWork_path_resetHeld (s : State) : (s.chooseWork).path.resetHeld = s.path.resetHeld := by
  unfold State.chooseWork State.reportFirst; repeat' split
  all_goals first | rfl | simp only [issueStatus_path_resetHeld] | simp only [beginReport_path_resetHeld]

@[simp] theorem statusFirst_path_resetHeld (s : State) : (s.statusFirst).path.resetHeld = s.path.resetHeld := by
  unfold State.statusFirst; split <;> simp

@[simp] theorem statusChanges_path_resetHeld (s : State) (l : List Nat) : (s.statusChanges l).path.resetHeld = s.path.resetHeld := by
  unfold State.statusChanges; simp

@[simp] theorem statusChange_path_resetHeld (s : State) (off : Nat) : (s.statusChange off).path.resetHeld = s.path.resetHeld := by
  unfold State.statusChange; simp

@[simp] theorem request_path_resetHeld (s : State) (k : ReportKind) (n : Nat) (a b : Word) : (s.request k n a b).path.resetHeld = s.path.resetHeld := by
  unfold State.request; split <;> simp

@[simp] theorem foreignWrite_path_resetHeld (s : State) (n : Nat) (w : UpWord) : (s.foreignWrite n w).path.resetHeld = s.path.resetHeld := by
  unfold State.foreignWrite; simp

@[simp] theorem beginReport_path_inHand (s : State) : (s.beginReport).path.inHand = s.path.inHand := by
  unfold State.beginReport; split <;> rfl

@[simp] theorem issueStatus_path_inHand (s : State) : (s.issueStatus).path.inHand = s.path.inHand := by
  unfold State.issueStatus; split <;> rfl

@[simp] theorem chooseWork_path_inHand (s : State) : (s.chooseWork).path.inHand = s.path.inHand := by
  unfold State.chooseWork State.reportFirst; repeat' split
  all_goals first | rfl | simp only [issueStatus_path_inHand] | simp only [beginReport_path_inHand]

@[simp] theorem statusFirst_path_inHand (s : State) : (s.statusFirst).path.inHand = s.path.inHand := by
  unfold State.statusFirst; split <;> simp

@[simp] theorem statusChanges_path_inHand (s : State) (l : List Nat) : (s.statusChanges l).path.inHand = s.path.inHand := by
  unfold State.statusChanges; simp

@[simp] theorem statusChange_path_inHand (s : State) (off : Nat) : (s.statusChange off).path.inHand = s.path.inHand := by
  unfold State.statusChange; simp

@[simp] theorem request_path_inHand (s : State) (k : ReportKind) (n : Nat) (a b : Word) : (s.request k n a b).path.inHand = s.path.inHand := by
  unfold State.request; split <;> simp

@[simp] theorem foreignWrite_path_inHand (s : State) (n : Nat) (w : UpWord) : (s.foreignWrite n w).path.inHand = s.path.inHand := by
  unfold State.foreignWrite; simp

@[simp] theorem beginReport_path_waiting (s : State) : (s.beginReport).path.waiting = s.path.waiting := by
  unfold State.beginReport; split <;> rfl

@[simp] theorem issueStatus_path_waiting (s : State) : (s.issueStatus).path.waiting = s.path.waiting := by
  unfold State.issueStatus; split <;> rfl

@[simp] theorem chooseWork_path_waiting (s : State) : (s.chooseWork).path.waiting = s.path.waiting := by
  unfold State.chooseWork State.reportFirst; repeat' split
  all_goals first | rfl | simp only [issueStatus_path_waiting] | simp only [beginReport_path_waiting]

@[simp] theorem statusFirst_path_waiting (s : State) : (s.statusFirst).path.waiting = s.path.waiting := by
  unfold State.statusFirst; split <;> simp

@[simp] theorem statusChanges_path_waiting (s : State) (l : List Nat) : (s.statusChanges l).path.waiting = s.path.waiting := by
  unfold State.statusChanges; simp

@[simp] theorem statusChange_path_waiting (s : State) (off : Nat) : (s.statusChange off).path.waiting = s.path.waiting := by
  unfold State.statusChange; simp

@[simp] theorem request_path_waiting (s : State) (k : ReportKind) (n : Nat) (a b : Word) : (s.request k n a b).path.waiting = s.path.waiting := by
  unfold State.request; split <;> simp

@[simp] theorem foreignWrite_path_waiting (s : State) (n : Nat) (w : UpWord) : (s.foreignWrite n w).path.waiting = s.path.waiting := by
  unfold State.foreignWrite; simp

@[simp] theorem beginReport_path_held (s : State) : (s.beginReport).path.held = s.path.held := by
  unfold State.beginReport; split <;> rfl

@[simp] theorem issueStatus_path_held (s : State) : (s.issueStatus).path.held = s.path.held := by
  unfold State.issueStatus; split <;> rfl

@[simp] theorem chooseWork_path_held (s : State) : (s.chooseWork).path.held = s.path.held := by
  unfold State.chooseWork State.reportFirst; repeat' split
  all_goals first | rfl | simp only [issueStatus_path_held] | simp only [beginReport_path_held]

@[simp] theorem statusFirst_path_held (s : State) : (s.statusFirst).path.held = s.path.held := by
  unfold State.statusFirst; split <;> simp

@[simp] theorem statusChanges_path_held (s : State) (l : List Nat) : (s.statusChanges l).path.held = s.path.held := by
  unfold State.statusChanges; simp

@[simp] theorem statusChange_path_held (s : State) (off : Nat) : (s.statusChange off).path.held = s.path.held := by
  unfold State.statusChange; simp

@[simp] theorem request_path_held (s : State) (k : ReportKind) (n : Nat) (a b : Word) : (s.request k n a b).path.held = s.path.held := by
  unfold State.request; split <;> simp

@[simp] theorem foreignWrite_path_held (s : State) (n : Nat) (w : UpWord) : (s.foreignWrite n w).path.held = s.path.held := by
  unfold State.foreignWrite; simp

@[simp] theorem beginReport_path_port (s : State) : (s.beginReport).path.port = s.path.port := by
  unfold State.beginReport; split <;> rfl

@[simp] theorem issueStatus_path_port (s : State) : (s.issueStatus).path.port = s.path.port := by
  unfold State.issueStatus; split <;> rfl

@[simp] theorem chooseWork_path_port (s : State) : (s.chooseWork).path.port = s.path.port := by
  unfold State.chooseWork State.reportFirst; repeat' split
  all_goals first | rfl | simp only [issueStatus_path_port] | simp only [beginReport_path_port]

@[simp] theorem statusFirst_path_port (s : State) : (s.statusFirst).path.port = s.path.port := by
  unfold State.statusFirst; split <;> simp

@[simp] theorem statusChanges_path_port (s : State) (l : List Nat) : (s.statusChanges l).path.port = s.path.port := by
  unfold State.statusChanges; simp

@[simp] theorem statusChange_path_port (s : State) (off : Nat) : (s.statusChange off).path.port = s.path.port := by
  unfold State.statusChange; simp

@[simp] theorem request_path_port (s : State) (k : ReportKind) (n : Nat) (a b : Word) : (s.request k n a b).path.port = s.path.port := by
  unfold State.request; split <;> simp

@[simp] theorem foreignWrite_path_port (s : State) (n : Nat) (w : UpWord) : (s.foreignWrite n w).path.port = s.path.port := by
  unfold State.foreignWrite; simp

@[simp] theorem beginReport_path_count (s : State) : (s.beginReport).path.count = s.path.count := by
  unfold State.beginReport; split <;> rfl

@[simp] theorem issueStatus_path_count (s : State) : (s.issueStatus).path.count = s.path.count := by
  unfold State.issueStatus; split <;> rfl

@[simp] theorem chooseWork_path_count (s : State) : (s.chooseWork).path.count = s.path.count := by
  unfold State.chooseWork State.reportFirst; repeat' split
  all_goals first | rfl | simp only [issueStatus_path_count] | simp only [beginReport_path_count]

@[simp] theorem statusFirst_path_count (s : State) : (s.statusFirst).path.count = s.path.count := by
  unfold State.statusFirst; split <;> simp

@[simp] theorem statusChanges_path_count (s : State) (l : List Nat) : (s.statusChanges l).path.count = s.path.count := by
  unfold State.statusChanges; simp

@[simp] theorem statusChange_path_count (s : State) (off : Nat) : (s.statusChange off).path.count = s.path.count := by
  unfold State.statusChange; simp

@[simp] theorem request_path_count (s : State) (k : ReportKind) (n : Nat) (a b : Word) : (s.request k n a b).path.count = s.path.count := by
  unfold State.request; split <;> simp

@[simp] theorem foreignWrite_path_count (s : State) (n : Nat) (w : UpWord) : (s.foreignWrite n w).path.count = s.path.count := by
  unfold State.foreignWrite; simp

@[simp] theorem beginReport_path_pointer (s : State) : (s.beginReport).path.pointer = s.path.pointer := by
  unfold State.beginReport; split <;> rfl

@[simp] theorem issueStatus_path_pointer (s : State) : (s.issueStatus).path.pointer = s.path.pointer := by
  unfold State.issueStatus; split <;> rfl

@[simp] theorem chooseWork_path_pointer (s : State) : (s.chooseWork).path.pointer = s.path.pointer := by
  unfold State.chooseWork State.reportFirst; repeat' split
  all_goals first | rfl | simp only [issueStatus_path_pointer] | simp only [beginReport_path_pointer]

@[simp] theorem statusFirst_path_pointer (s : State) : (s.statusFirst).path.pointer = s.path.pointer := by
  unfold State.statusFirst; split <;> simp

@[simp] theorem statusChanges_path_pointer (s : State) (l : List Nat) : (s.statusChanges l).path.pointer = s.path.pointer := by
  unfold State.statusChanges; simp

@[simp] theorem statusChange_path_pointer (s : State) (off : Nat) : (s.statusChange off).path.pointer = s.path.pointer := by
  unfold State.statusChange; simp

@[simp] theorem request_path_pointer (s : State) (k : ReportKind) (n : Nat) (a b : Word) : (s.request k n a b).path.pointer = s.path.pointer := by
  unfold State.request; split <;> simp

@[simp] theorem foreignWrite_path_pointer (s : State) (n : Nat) (w : UpWord) : (s.foreignWrite n w).path.pointer = s.path.pointer := by
  unfold State.foreignWrite; simp

@[simp] theorem beginReport_path_ownPL (s : State) : (s.beginReport).path.ownPL = s.path.ownPL := by
  unfold State.beginReport; split <;> rfl

@[simp] theorem issueStatus_path_ownPL (s : State) : (s.issueStatus).path.ownPL = s.path.ownPL := by
  unfold State.issueStatus; split <;> rfl

@[simp] theorem chooseWork_path_ownPL (s : State) : (s.chooseWork).path.ownPL = s.path.ownPL := by
  unfold State.chooseWork State.reportFirst; repeat' split
  all_goals first | rfl | simp only [issueStatus_path_ownPL] | simp only [beginReport_path_ownPL]

@[simp] theorem statusFirst_path_ownPL (s : State) : (s.statusFirst).path.ownPL = s.path.ownPL := by
  unfold State.statusFirst; split <;> simp

@[simp] theorem statusChanges_path_ownPL (s : State) (l : List Nat) : (s.statusChanges l).path.ownPL = s.path.ownPL := by
  unfold State.statusChanges; simp

@[simp] theorem statusChange_path_ownPL (s : State) (off : Nat) : (s.statusChange off).path.ownPL = s.path.ownPL := by
  unfold State.statusChange; simp

@[simp] theorem request_path_ownPL (s : State) (k : ReportKind) (n : Nat) (a b : Word) : (s.request k n a b).path.ownPL = s.path.ownPL := by
  unfold State.request; split <;> simp

@[simp] theorem foreignWrite_path_ownPL (s : State) (n : Nat) (w : UpWord) : (s.foreignWrite n w).path.ownPL = s.path.ownPL := by
  unfold State.foreignWrite; simp

@[simp] theorem beginReport_path_ownCU (s : State) : (s.beginReport).path.ownCU = s.path.ownCU := by
  unfold State.beginReport; split <;> rfl

@[simp] theorem issueStatus_path_ownCU (s : State) : (s.issueStatus).path.ownCU = s.path.ownCU := by
  unfold State.issueStatus; split <;> rfl

@[simp] theorem chooseWork_path_ownCU (s : State) : (s.chooseWork).path.ownCU = s.path.ownCU := by
  unfold State.chooseWork State.reportFirst; repeat' split
  all_goals first | rfl | simp only [issueStatus_path_ownCU] | simp only [beginReport_path_ownCU]

@[simp] theorem statusFirst_path_ownCU (s : State) : (s.statusFirst).path.ownCU = s.path.ownCU := by
  unfold State.statusFirst; split <;> simp

@[simp] theorem statusChanges_path_ownCU (s : State) (l : List Nat) : (s.statusChanges l).path.ownCU = s.path.ownCU := by
  unfold State.statusChanges; simp

@[simp] theorem statusChange_path_ownCU (s : State) (off : Nat) : (s.statusChange off).path.ownCU = s.path.ownCU := by
  unfold State.statusChange; simp

@[simp] theorem request_path_ownCU (s : State) (k : ReportKind) (n : Nat) (a b : Word) : (s.request k n a b).path.ownCU = s.path.ownCU := by
  unfold State.request; split <;> simp

@[simp] theorem foreignWrite_path_ownCU (s : State) (n : Nat) (w : UpWord) : (s.foreignWrite n w).path.ownCU = s.path.ownCU := by
  unfold State.foreignWrite; simp

@[simp] theorem beginReport_path_ownSS (s : State) : (s.beginReport).path.ownSS = s.path.ownSS := by
  unfold State.beginReport; split <;> rfl

@[simp] theorem issueStatus_path_ownSS (s : State) : (s.issueStatus).path.ownSS = s.path.ownSS := by
  unfold State.issueStatus; split <;> rfl

@[simp] theorem chooseWork_path_ownSS (s : State) : (s.chooseWork).path.ownSS = s.path.ownSS := by
  unfold State.chooseWork State.reportFirst; repeat' split
  all_goals first | rfl | simp only [issueStatus_path_ownSS] | simp only [beginReport_path_ownSS]

@[simp] theorem statusFirst_path_ownSS (s : State) : (s.statusFirst).path.ownSS = s.path.ownSS := by
  unfold State.statusFirst; split <;> simp

@[simp] theorem statusChanges_path_ownSS (s : State) (l : List Nat) : (s.statusChanges l).path.ownSS = s.path.ownSS := by
  unfold State.statusChanges; simp

@[simp] theorem statusChange_path_ownSS (s : State) (off : Nat) : (s.statusChange off).path.ownSS = s.path.ownSS := by
  unfold State.statusChange; simp

@[simp] theorem request_path_ownSS (s : State) (k : ReportKind) (n : Nat) (a b : Word) : (s.request k n a b).path.ownSS = s.path.ownSS := by
  unfold State.request; split <;> simp

@[simp] theorem foreignWrite_path_ownSS (s : State) (n : Nat) (w : UpWord) : (s.foreignWrite n w).path.ownSS = s.path.ownSS := by
  unfold State.foreignWrite; simp

@[simp] theorem beginReport_path_lastDone (s : State) : (s.beginReport).path.lastDone = s.path.lastDone := by
  unfold State.beginReport; split <;> rfl

@[simp] theorem issueStatus_path_lastDone (s : State) : (s.issueStatus).path.lastDone = s.path.lastDone := by
  unfold State.issueStatus; split <;> rfl

@[simp] theorem chooseWork_path_lastDone (s : State) : (s.chooseWork).path.lastDone = s.path.lastDone := by
  unfold State.chooseWork State.reportFirst; repeat' split
  all_goals first | rfl | simp only [issueStatus_path_lastDone] | simp only [beginReport_path_lastDone]

@[simp] theorem statusFirst_path_lastDone (s : State) : (s.statusFirst).path.lastDone = s.path.lastDone := by
  unfold State.statusFirst; split <;> simp

@[simp] theorem statusChanges_path_lastDone (s : State) (l : List Nat) : (s.statusChanges l).path.lastDone = s.path.lastDone := by
  unfold State.statusChanges; simp

@[simp] theorem statusChange_path_lastDone (s : State) (off : Nat) : (s.statusChange off).path.lastDone = s.path.lastDone := by
  unfold State.statusChange; simp

@[simp] theorem request_path_lastDone (s : State) (k : ReportKind) (n : Nat) (a b : Word) : (s.request k n a b).path.lastDone = s.path.lastDone := by
  unfold State.request; split <;> simp

@[simp] theorem foreignWrite_path_lastDone (s : State) (n : Nat) (w : UpWord) : (s.foreignWrite n w).path.lastDone = s.path.lastDone := by
  unfold State.foreignWrite; simp

@[simp] theorem beginReport_writer_head (s : State) : (s.beginReport).writer.head = s.writer.head := by
  unfold State.beginReport; split <;> rfl

@[simp] theorem issueStatus_writer_head (s : State) : (s.issueStatus).writer.head = s.writer.head := by
  unfold State.issueStatus; split <;> rfl

@[simp] theorem chooseWork_writer_head (s : State) : (s.chooseWork).writer.head = s.writer.head := by
  unfold State.chooseWork State.reportFirst; repeat' split
  all_goals first | rfl | simp only [issueStatus_writer_head] | simp only [beginReport_writer_head]

@[simp] theorem statusFirst_writer_head (s : State) : (s.statusFirst).writer.head = s.writer.head := by
  unfold State.statusFirst; split <;> simp

@[simp] theorem statusChanges_writer_head (s : State) (l : List Nat) : (s.statusChanges l).writer.head = s.writer.head := by
  unfold State.statusChanges; simp

@[simp] theorem statusChange_writer_head (s : State) (off : Nat) : (s.statusChange off).writer.head = s.writer.head := by
  unfold State.statusChange; simp

@[simp] theorem request_writer_head (s : State) (k : ReportKind) (n : Nat) (a b : Word) : (s.request k n a b).writer.head = s.writer.head := by
  unfold State.request; split <;> simp

@[simp] theorem foreignWrite_writer_head (s : State) (n : Nat) (w : UpWord) : (s.foreignWrite n w).writer.head = s.writer.head := by
  unfold State.foreignWrite; simp

@[simp] theorem beginReport_writer_tail (s : State) : (s.beginReport).writer.tail = s.writer.tail := by
  unfold State.beginReport; split <;> rfl

@[simp] theorem issueStatus_writer_tail (s : State) : (s.issueStatus).writer.tail = s.writer.tail := by
  unfold State.issueStatus; split <;> rfl

@[simp] theorem chooseWork_writer_tail (s : State) : (s.chooseWork).writer.tail = s.writer.tail := by
  unfold State.chooseWork State.reportFirst; repeat' split
  all_goals first | rfl | simp only [issueStatus_writer_tail] | simp only [beginReport_writer_tail]

@[simp] theorem statusFirst_writer_tail (s : State) : (s.statusFirst).writer.tail = s.writer.tail := by
  unfold State.statusFirst; split <;> simp

@[simp] theorem statusChanges_writer_tail (s : State) (l : List Nat) : (s.statusChanges l).writer.tail = s.writer.tail := by
  unfold State.statusChanges; simp

@[simp] theorem statusChange_writer_tail (s : State) (off : Nat) : (s.statusChange off).writer.tail = s.writer.tail := by
  unfold State.statusChange; simp

@[simp] theorem request_writer_tail (s : State) (k : ReportKind) (n : Nat) (a b : Word) : (s.request k n a b).writer.tail = s.writer.tail := by
  unfold State.request; split <;> simp

@[simp] theorem foreignWrite_writer_tail (s : State) (n : Nat) (w : UpWord) : (s.foreignWrite n w).writer.tail = s.writer.tail := by
  unfold State.foreignWrite; simp

@[simp] theorem beginReport_writer_queue (s : State) : (s.beginReport).writer.queue = s.writer.queue := by
  unfold State.beginReport; split <;> rfl

@[simp] theorem issueStatus_writer_queue (s : State) : (s.issueStatus).writer.queue = s.writer.queue := by
  unfold State.issueStatus; split <;> rfl

@[simp] theorem chooseWork_writer_queue (s : State) : (s.chooseWork).writer.queue = s.writer.queue := by
  unfold State.chooseWork State.reportFirst; repeat' split
  all_goals first | rfl | simp only [issueStatus_writer_queue] | simp only [beginReport_writer_queue]

@[simp] theorem statusFirst_writer_queue (s : State) : (s.statusFirst).writer.queue = s.writer.queue := by
  unfold State.statusFirst; split <;> simp

@[simp] theorem statusChanges_writer_queue (s : State) (l : List Nat) : (s.statusChanges l).writer.queue = s.writer.queue := by
  unfold State.statusChanges; simp

@[simp] theorem statusChange_writer_queue (s : State) (off : Nat) : (s.statusChange off).writer.queue = s.writer.queue := by
  unfold State.statusChange; simp

@[simp] theorem beginReport_writer_dropped (s : State) : (s.beginReport).writer.dropped = s.writer.dropped := by
  unfold State.beginReport; split <;> rfl

@[simp] theorem issueStatus_writer_dropped (s : State) : (s.issueStatus).writer.dropped = s.writer.dropped := by
  unfold State.issueStatus; split <;> rfl

@[simp] theorem chooseWork_writer_dropped (s : State) : (s.chooseWork).writer.dropped = s.writer.dropped := by
  unfold State.chooseWork State.reportFirst; repeat' split
  all_goals first | rfl | simp only [issueStatus_writer_dropped] | simp only [beginReport_writer_dropped]

@[simp] theorem statusFirst_writer_dropped (s : State) : (s.statusFirst).writer.dropped = s.writer.dropped := by
  unfold State.statusFirst; split <;> simp

@[simp] theorem statusChanges_writer_dropped (s : State) (l : List Nat) : (s.statusChanges l).writer.dropped = s.writer.dropped := by
  unfold State.statusChanges; simp

@[simp] theorem statusChange_writer_dropped (s : State) (off : Nat) : (s.statusChange off).writer.dropped = s.writer.dropped := by
  unfold State.statusChange; simp

@[simp] theorem beginReport_writer_total (s : State) : (s.beginReport).writer.total = s.writer.total := by
  unfold State.beginReport; split <;> rfl

@[simp] theorem issueStatus_writer_total (s : State) : (s.issueStatus).writer.total = s.writer.total := by
  unfold State.issueStatus; split <;> rfl

@[simp] theorem chooseWork_writer_total (s : State) : (s.chooseWork).writer.total = s.writer.total := by
  unfold State.chooseWork State.reportFirst; repeat' split
  all_goals first | rfl | simp only [issueStatus_writer_total] | simp only [beginReport_writer_total]

@[simp] theorem statusFirst_writer_total (s : State) : (s.statusFirst).writer.total = s.writer.total := by
  unfold State.statusFirst; split <;> simp

@[simp] theorem statusChanges_writer_total (s : State) (l : List Nat) : (s.statusChanges l).writer.total = s.writer.total := by
  unfold State.statusChanges; simp

@[simp] theorem statusChange_writer_total (s : State) (off : Nat) : (s.statusChange off).writer.total = s.writer.total := by
  unfold State.statusChange; simp

@[simp] theorem line_chooseWork (s : State) (i : Fin 24) : (s.chooseWork).line i = s.line i := by
  simp [State.line]

@[simp] theorem line_statusFirst (s : State) (i : Fin 24) : (s.statusFirst).line i = s.line i := by
  simp [State.line]

@[simp] theorem line_statusChanges (s : State) (l : List Nat) (i : Fin 24) : (s.statusChanges l).line i = s.line i := by
  simp [State.line]

@[simp] theorem line_statusChange (s : State) (off : Nat) (i : Fin 24) : (s.statusChange off).line i = s.line i := by
  simp [State.line]

@[simp] theorem line_request (s : State) (k : ReportKind) (n : Nat) (a b : Word) (i : Fin 24) : (s.request k n a b).line i = s.line i := by
  simp [State.line]

@[simp] theorem line_foreignWrite (s : State) (n : Nat) (w : UpWord) (i : Fin 24) : (s.foreignWrite n w).line i = s.line i := by
  simp [State.line]

@[simp] theorem area_chooseWork (s : State) (i : Fin 8) : (s.chooseWork).area i = s.area i := by
  simp [State.area]

@[simp] theorem area_statusFirst (s : State) (i : Fin 8) : (s.statusFirst).area i = s.area i := by
  simp [State.area]

@[simp] theorem area_statusChanges (s : State) (l : List Nat) (i : Fin 8) : (s.statusChanges l).area i = s.area i := by
  simp [State.area]

@[simp] theorem area_statusChange (s : State) (off : Nat) (i : Fin 8) : (s.statusChange off).area i = s.area i := by
  simp [State.area]

@[simp] theorem area_request (s : State) (k : ReportKind) (n : Nat) (a b : Word) (i : Fin 8) : (s.request k n a b).area i = s.area i := by
  simp [State.area]

@[simp] theorem area_foreignWrite (s : State) (n : Nat) (w : UpWord) (i : Fin 8) : (s.foreignWrite n w).area i = s.area i := by
  simp [State.area]

@[simp] theorem tap_chooseWork (s : State) (i : Fin 48) : (s.chooseWork).tap i = s.tap i := by
  simp [State.tap]

@[simp] theorem tap_statusFirst (s : State) (i : Fin 48) : (s.statusFirst).tap i = s.tap i := by
  simp [State.tap]

@[simp] theorem tap_statusChanges (s : State) (l : List Nat) (i : Fin 48) : (s.statusChanges l).tap i = s.tap i := by
  simp [State.tap]

@[simp] theorem tap_statusChange (s : State) (off : Nat) (i : Fin 48) : (s.statusChange off).tap i = s.tap i := by
  simp [State.tap]

@[simp] theorem tap_request (s : State) (k : ReportKind) (n : Nat) (a b : Word) (i : Fin 48) : (s.request k n a b).tap i = s.tap i := by
  simp [State.tap]

@[simp] theorem tap_foreignWrite (s : State) (n : Nat) (w : UpWord) (i : Fin 48) : (s.foreignWrite n w).tap i = s.tap i := by
  simp [State.tap]

@[simp] theorem guard_chooseWork (s : State) (i : Fin 48) : (s.chooseWork).guard i = s.guard i := by
  simp [State.guard]

@[simp] theorem guard_statusFirst (s : State) (i : Fin 48) : (s.statusFirst).guard i = s.guard i := by
  simp [State.guard]

@[simp] theorem guard_statusChanges (s : State) (l : List Nat) (i : Fin 48) : (s.statusChanges l).guard i = s.guard i := by
  simp [State.guard]

@[simp] theorem guard_statusChange (s : State) (off : Nat) (i : Fin 48) : (s.statusChange off).guard i = s.guard i := by
  simp [State.guard]

@[simp] theorem guard_request (s : State) (k : ReportKind) (n : Nat) (a b : Word) (i : Fin 48) : (s.request k n a b).guard i = s.guard i := by
  simp [State.guard]

@[simp] theorem guard_foreignWrite (s : State) (n : Nat) (w : UpWord) (i : Fin 48) : (s.foreignWrite n w).guard i = s.guard i := by
  simp [State.guard]

@[simp] theorem unit_chooseWork (s : State) (i : Fin 4) : (s.chooseWork).unit i = s.unit i := by
  simp [State.unit]

@[simp] theorem unit_statusFirst (s : State) (i : Fin 4) : (s.statusFirst).unit i = s.unit i := by
  simp [State.unit]

@[simp] theorem unit_statusChanges (s : State) (l : List Nat) (i : Fin 4) : (s.statusChanges l).unit i = s.unit i := by
  simp [State.unit]

@[simp] theorem unit_statusChange (s : State) (off : Nat) (i : Fin 4) : (s.statusChange off).unit i = s.unit i := by
  simp [State.unit]

@[simp] theorem unit_request (s : State) (k : ReportKind) (n : Nat) (a b : Word) (i : Fin 4) : (s.request k n a b).unit i = s.unit i := by
  simp [State.unit]

@[simp] theorem unit_foreignWrite (s : State) (n : Nat) (w : UpWord) (i : Fin 4) : (s.foreignWrite n w).unit i = s.unit i := by
  simp [State.unit]

/-! ### What RW makes of them -/

theorem mem_insertOffset (o x : Nat) (l : List Nat) : o ∈ insertOffset x l ↔ o = x ∨ o ∈ l := by
  induction l with
  | nil => simp [insertOffset]
  | cons y l ih =>
    unfold insertOffset
    split
    · simp
    · split
      · subst_vars; simp
      · simp only [List.mem_cons, ih]; exact or_left_comm

theorem mem_foldl_insertOffset (l d : List Nat) (o : Nat) :
    o ∈ l.foldl (fun d o => insertOffset o d) d ↔ o ∈ l ∨ o ∈ d := by
  induction l generalizing d with
  | nil => simp
  | cons x l ih => simp only [List.foldl_cons, ih, mem_insertOffset, List.mem_cons, or_assoc]; exact or_left_comm

/-- RW's choice of work takes an offset out of the dirty set only to write it. -/
theorem Marked.issueStatus {s : State} {off : Nat} (h : Marked s off) : Marked s.issueStatus off := by
  unfold State.issueStatus
  split
  · exact h
  · rename_i x rest hd
    rcases h with h | ⟨v, h⟩
    · rw [hd] at h
      rcases List.mem_cons.1 h with h | h
      · right; subst h; exact ⟨_, by simp; right; rfl⟩
      · left; simpa using h
    · right; exact ⟨v, by simp [h]⟩

theorem Marked.beginReport {s : State} {off : Nat} (h : Marked s off) : Marked s.beginReport off := by
  unfold State.beginReport
  split
  · exact h
  · rcases h with h | ⟨v, h⟩
    · left; simpa using h
    · right; exact ⟨v, by simp [h]⟩

theorem Marked.chooseWork {s : State} {off : Nat} (h : Marked s off) : Marked s.chooseWork off := by
  unfold State.chooseWork State.reportFirst
  repeat' split
  all_goals first | exact h | exact h.issueStatus | exact h.beginReport

theorem Marked.statusChanges {s : State} {off : Nat} (l : List Nat) (h : Marked s off) :
    Marked (s.statusChanges l) off := by
  refine Marked.chooseWork ?_
  rcases h with h | h
  · left; simp [mem_foldl_insertOffset, h]
  · right; simpa using h

theorem marked_statusChanges (s : State) (l : List Nat) (off : Nat) (h : off ∈ l) : Marked (s.statusChanges l) off :=
  Marked.chooseWork (.inl (by simp [mem_foldl_insertOffset, h]))

theorem marked_statusChange (s : State) (off : Nat) : Marked (s.statusChange off) off :=
  marked_statusChanges s [off] off (by simp)

theorem Marked.statusChange {s : State} {off : Nat} (o : Nat) (h : Marked s off) : Marked (s.statusChange o) off :=
  h.statusChanges [o]

theorem Marked.request {s : State} {off : Nat} (k : ReportKind) (n : Nat) (a b : Word) (h : Marked s off) :
    Marked (s.request k n a b) off := by
  unfold State.request
  split
  · refine Marked.chooseWork ?_
    rcases h with h | h
    · left; simpa using h
    · right; simpa using h
  · refine Marked.statusChange _ ?_
    rcases h with h | h
    · left; simpa using h
    · right; simpa using h

/-- What is dirty or being written stays so through every change of the state that leaves RW alone. -/
theorem Marked.congr {s t : State} {off : Nat} (h : Marked s off) (hw : t.writer.dirty = s.writer.dirty)
    (hp : t.path.ownRW = s.path.ownRW) : Marked t off := by
  unfold Marked; rw [hw, hp]; exact h

/-! ### The reports asked for on the way (`Asks`) -/

/-- RW's acceptance test is that of R155. -/
theorem accepts_iff (w : ReportWriter) :
    w.accepts = true ↔ w.queue.length < 8 ∧ (w.head - w.tail).toNat + w.queue.length + 1 ≤ 63 := by
  simp [ReportWriter.accepts, ReportWriter.occupancy]

/-- Taking a report lengthens the queue by one where it accepts. -/
theorem asked_length (stamp : Word) (w : ReportWriter) (q : Request) :
    (w.asked stamp q).queue.length ≤ w.queue.length + 1 := by
  unfold ReportWriter.asked; split <;> simp

theorem asked_frame (stamp : Word) (w : ReportWriter) (q : Request) :
    (w.asked stamp q).head = w.head ∧ (w.asked stamp q).tail = w.tail := by
  unfold ReportWriter.asked; split <;> simp

theorem foldl_asked_frame (stamp : Word) (l : List Request) (w : ReportWriter) :
    (l.foldl (ReportWriter.asked stamp) w).head = w.head ∧ (l.foldl (ReportWriter.asked stamp) w).tail = w.tail := by
  induction l generalizing w with
  | nil => exact ⟨rfl, rfl⟩
  | cons q l ih =>
    rw [List.foldl_cons]
    exact ⟨(ih _).1.trans (asked_frame stamp w q).1, (ih _).2.trans (asked_frame stamp w q).2⟩

theorem foldl_asked_length (stamp : Word) (l : List Request) (w : ReportWriter) :
    (l.foldl (ReportWriter.asked stamp) w).queue.length ≤ w.queue.length + l.length := by
  induction l generalizing w with
  | nil => simp
  | cons q l ih =>
    rw [List.foldl_cons, List.length_cons]
    have := ih (w.asked stamp q)
    have := asked_length stamp w q
    omega

/-- Nothing is asked where RW's head, tail, queue and counts stand. -/
theorem asks_nil (stamp : Word) {s t : State} (h1 : t.writer.head = s.writer.head) (h2 : t.writer.tail = s.writer.tail)
    (h3 : t.writer.queue = s.writer.queue) (h4 : t.writer.dropped = s.writer.dropped)
    (h5 : t.writer.total = s.writer.total) : Asks stamp s t [] :=
  ⟨⟨h1, h2, h3, h4, h5⟩, fun h => absurd h (by simp)⟩

theorem asks_refl (stamp : Word) (s : State) : Asks stamp s s [] := asks_nil stamp rfl rfl rfl rfl rfl

namespace Asks

variable {stamp : Word} {s t : State} {l : List Request}

/-- A report more, where RW has taken the others before. -/
theorem request (h : Asks stamp s t l) (ht : t.command.lastStamp = stamp) (k : ReportKind) (n : Nat) (a b : Word) :
    Asks stamp s (t.request k n a b) (l ++ [⟨k, n, a, b⟩]) := by
  obtain ⟨⟨h1, h2, h3, h4, h5⟩, h6⟩ := h
  have hl := foldl_asked_length stamp l s.writer
  unfold Asks
  simp only [List.foldl_append, List.foldl_cons, List.foldl_nil, List.length_append, List.length_singleton]
  generalize l.foldl (ReportWriter.asked stamp) s.writer = w at *
  by_cases hq : w.queue.length < 8 ∧ (w.head - w.tail).toNat + w.queue.length + 1 ≤ 63
  · have hacc : t.writer.accepts = true := (accepts_iff _).2 (by rw [h1, h2, h3]; exact hq)
    have e : w.asked stamp ⟨k, n, a, b⟩ =
        { w with queue := w.queue ++ [⟨k, n, stamp, a, b, w.dropped⟩], dropped := 0 } := if_pos hq
    rw [e]
    refine ⟨⟨by simp [h1], by simp [h2], ?_, ?_, ?_⟩, fun hlt => Marked.request _ _ _ _ (h6 ?_)⟩
    · unfold State.request; simp [hacc, h3, h4, ht]
    · unfold State.request; simp [hacc]
    · unfold State.request; simp [hacc, h5]
    · simp at hlt; omega
  · have hacc : ¬ t.writer.accepts = true := fun h => hq (by have := (accepts_iff _).1 h; rwa [h1, h2, h3] at this)
    have e : w.asked stamp ⟨k, n, a, b⟩ =
        { w with dropped := min 65535 (w.dropped + 1), total := min 4294967295 (w.total + 1) } := if_neg hq
    rw [e]
    refine ⟨⟨by simp [h1], by simp [h2], ?_, ?_, ?_⟩, fun _ => ?_⟩
    · unfold State.request; simp [hacc, h3]
    · unfold State.request; simp [hacc, h4, countUp]
    · unfold State.request; simp [hacc, h5]
    · unfold State.request; rw [if_neg hacc]; exact marked_statusChange _ 19

theorem statusChanges (h : Asks stamp s t l) (offs : List Nat) : Asks stamp s (t.statusChanges offs) l :=
  ⟨by simpa using h.1, fun hlt => (h.2 hlt).statusChanges offs⟩

theorem statusChange (h : Asks stamp s t l) (off : Nat) : Asks stamp s (t.statusChange off) l := h.statusChanges [off]

/-- What was asked stays asked through every change that leaves RW and its writes alone. -/
theorem record {u : State} (h : Asks stamp s t l) (hw : u.writer = t.writer := by rfl)
    (hp : u.path.ownRW = t.path.ownRW := by rfl) : Asks stamp s u l :=
  ⟨by rw [hw]; exact h.1, fun hlt => (h.2 hlt).congr (by rw [hw]) hp⟩

/-- What was asked stays asked through every change that leaves RW's head, tail, queue and counts and undoes no status
change of word 19. -/
theorem congr {u : State} (h : Asks stamp s t l) (h1 : u.writer.head = t.writer.head)
    (h2 : u.writer.tail = t.writer.tail) (h3 : u.writer.queue = t.writer.queue)
    (h4 : u.writer.dropped = t.writer.dropped) (h5 : u.writer.total = t.writer.total)
    (hm : Marked t 19 → Marked u 19) : Asks stamp s u l :=
  ⟨by rw [h1, h2, h3, h4, h5]; exact h.1, fun hlt => hm (h.2 hlt)⟩

/-- What RW does between two states depends on its head, tail, queue and counts alone. -/
theorem source {s' : State} (h : Asks stamp s t l) (h1 : s'.writer.head = s.writer.head)
    (h2 : s'.writer.tail = s.writer.tail) (h3 : s'.writer.queue = s.writer.queue)
    (h4 : s'.writer.dropped = s.writer.dropped) (h5 : s'.writer.total = s.writer.total) : Asks stamp s' t l := by
  have key : ∀ (l : List Request) (w v : ReportWriter), (v.head = w.head ∧ v.tail = w.tail ∧ v.queue = w.queue ∧
      v.dropped = w.dropped ∧ v.total = w.total) →
      let x := l.foldl (ReportWriter.asked stamp) w
      let y := l.foldl (ReportWriter.asked stamp) v
      y.head = x.head ∧ y.tail = x.tail ∧ y.queue = x.queue ∧ y.dropped = x.dropped ∧ y.total = x.total := by
    intro l
    induction l with
    | nil => intro w v h; exact h
    | cons q l ih =>
      intro w v h
      refine ih (w.asked stamp q) (v.asked stamp q) ?_
      obtain ⟨a1, a2, a3, a4, a5⟩ := h
      unfold ReportWriter.asked
      rw [a1, a2, a3]
      split <;> simp [a4, a5]
  obtain ⟨k1, k2, k3, k4, k5⟩ := key l s.writer s'.writer ⟨h1, h2, h3, h4, h5⟩
  obtain ⟨⟨a1, a2, a3, a4, a5⟩, a6⟩ := h
  refine ⟨⟨a1.trans k1.symm, a2.trans k2.symm, a3.trans k3.symm, a4.trans k4.symm, a5.trans k5.symm⟩, fun hlt => a6 ?_⟩
  rw [k3, h3] at hlt
  exact hlt

/-- The reports asked for on the first part of a way and on the second. -/
theorem trans {u : State} {m : List Request} (h : Asks stamp s t l) (k : Asks stamp t u m)
    (hm : Marked t 19 → Marked u 19) : Asks stamp s u (l ++ m) := by
  obtain ⟨⟨a1, a2, a3, a4, a5⟩, a6⟩ := h
  have key := Asks.source (s' := { t with writer := l.foldl (ReportWriter.asked stamp) s.writer }) k
    a1.symm a2.symm a3.symm a4.symm a5.symm
  refine ⟨?_, fun hlt => ?_⟩
  · rw [List.foldl_append]; exact key.1
  · rw [List.foldl_append, List.length_append] at hlt
    have hk := key.2
    by_cases hl : (l.foldl (ReportWriter.asked stamp) s.writer).queue.length < s.writer.queue.length + l.length
    · exact hm (a6 hl)
    · refine hk ?_
      have := foldl_asked_length stamp l s.writer
      show _ < (l.foldl (ReportWriter.asked stamp) s.writer).queue.length + m.length
      have e : (l.foldl (ReportWriter.asked stamp) s.writer).queue.length = s.writer.queue.length + l.length := by omega
      rw [e]
      simpa [Nat.add_assoc] using hlt

end Asks

/-- A request, where nothing of RW's state and not the last frame stamp has changed before it. -/
theorem reported_request (s t : State) (k : ReportKind) (n : Nat) (a b : Word) (hw : t.writer = s.writer)
    (hc : t.command.lastStamp = s.command.lastStamp) : Reported s (t.request k n a b) k n a b := by
  have h : Asks s.command.lastStamp s t [] := asks_nil _ (by rw [hw]) (by rw [hw]) (by rw [hw]) (by rw [hw]) (by rw [hw])
  exact h.request hc k n a b

namespace Reported

variable {s t : State} {k : ReportKind} {n : Nat} {a b : Word}

theorem statusChanges (h : Reported s t k n a b) (offs : List Nat) : Reported s (t.statusChanges offs) k n a b :=
  Asks.statusChanges h offs

theorem statusChange (h : Reported s t k n a b) (off : Nat) : Reported s (t.statusChange off) k n a b :=
  Asks.statusChange h off

theorem record {u : State} (h : Reported s t k n a b) (hw : u.writer = t.writer := by rfl)
    (hp : u.path.ownRW = t.path.ownRW := by rfl) : Reported s u k n a b := Asks.record h hw hp

theorem source {s' : State} (h : Reported s t k n a b) (hw : s'.writer = s.writer)
    (hc : s'.command.lastStamp = s.command.lastStamp) : Reported s' t k n a b := by
  unfold Reported; rw [hc]
  exact Asks.source h (by rw [hw]) (by rw [hw]) (by rw [hw]) (by rw [hw]) (by rw [hw])

end Reported

end Sys2Proof.Machine
end

