-- ==== Sys2Proof/Laws/Words.lean ====
section
/-!
SUPPORT. How a word is taken: what AW's look leaves alone, where the words of the plan area fall, and what comes of a
word that is taken.
-/
namespace Sys2Proof.Machine

/-! ### AW's look at a word -/

@[simp] theorem awLook_pending (w : UpWord) (s : State) : (awLook w s).pending = s.pending :=
  forEach_keeps (fun t => t.pending = s.pending) _ (fun u _ t ht => by
    unfold awHit; dsimp only; split <;> simpa using ht) rfl

@[simp] theorem awLook_mem (w : UpWord) (s : State) : (awLook w s).mem = s.mem :=
  forEach_keeps (fun t => t.mem = s.mem) _ (fun u _ t ht => by
    unfold awHit; dsimp only; split <;> simpa using ht) rfl

@[simp] theorem awLook_lines (w : UpWord) (s : State) : (awLook w s).lines = s.lines :=
  forEach_keeps (fun t => t.lines = s.lines) _ (fun u _ t ht => by
    unfold awHit; dsimp only; split <;> simpa using ht) rfl

@[simp] theorem awLook_areas (w : UpWord) (s : State) : (awLook w s).areas = s.areas :=
  forEach_keeps (fun t => t.areas = s.areas) _ (fun u _ t ht => by
    unfold awHit; dsimp only; split <;> simpa using ht) rfl

@[simp] theorem awLook_taps (w : UpWord) (s : State) : (awLook w s).taps = s.taps :=
  forEach_keeps (fun t => t.taps = s.taps) _ (fun u _ t ht => by
    unfold awHit; dsimp only; split <;> simpa using ht) rfl

@[simp] theorem awLook_guards (w : UpWord) (s : State) : (awLook w s).guards = s.guards :=
  forEach_keeps (fun t => t.guards = s.guards) _ (fun u _ t ht => by
    unfold awHit; dsimp only; split <;> simpa using ht) rfl

@[simp] theorem awLook_yieldLevel (w : UpWord) (s : State) : (awLook w s).yieldLevel = s.yieldLevel :=
  forEach_keeps (fun t => t.yieldLevel = s.yieldLevel) _ (fun u _ t ht => by
    unfold awHit; dsimp only; split <;> simpa using ht) rfl

@[simp] theorem awLook_loader (w : UpWord) (s : State) : (awLook w s).loader = s.loader :=
  forEach_keeps (fun t => t.loader = s.loader) _ (fun u _ t ht => by
    unfold awHit; dsimp only; split <;> simpa using ht) rfl

@[simp] theorem awLook_command (w : UpWord) (s : State) : (awLook w s).command = s.command :=
  forEach_keeps (fun t => t.command = s.command) _ (fun u _ t ht => by
    unfold awHit; dsimp only; split <;> simpa using ht) rfl

@[simp] theorem awLook_store (w : UpWord) (s : State) : (awLook w s).store = s.store :=
  forEach_keeps (fun t => t.store = s.store) _ (fun u _ t ht => by
    unfold awHit; dsimp only; split <;> simpa using ht) rfl

@[simp] theorem awLook_freeUsed (w : UpWord) (s : State) : (awLook w s).freeUsed = s.freeUsed :=
  forEach_keeps (fun t => t.freeUsed = s.freeUsed) _ (fun u _ t ht => by
    unfold awHit; dsimp only; split <;> simpa using ht) rfl

@[simp] theorem awLook_path_straps (w : UpWord) (s : State) : (awLook w s).path.straps = s.path.straps :=
  forEach_keeps (fun t => t.path.straps = s.path.straps) _ (fun u _ t ht => by
    unfold awHit; dsimp only; split <;> simpa using ht) rfl

@[simp] theorem awLook_path_resetHeld (w : UpWord) (s : State) : (awLook w s).path.resetHeld = s.path.resetHeld :=
  forEach_keeps (fun t => t.path.resetHeld = s.path.resetHeld) _ (fun u _ t ht => by
    unfold awHit; dsimp only; split <;> simpa using ht) rfl

@[simp] theorem awLook_path_inHand (w : UpWord) (s : State) : (awLook w s).path.inHand = s.path.inHand :=
  forEach_keeps (fun t => t.path.inHand = s.path.inHand) _ (fun u _ t ht => by
    unfold awHit; dsimp only; split <;> simpa using ht) rfl

@[simp] theorem awLook_path_waiting (w : UpWord) (s : State) : (awLook w s).path.waiting = s.path.waiting :=
  forEach_keeps (fun t => t.path.waiting = s.path.waiting) _ (fun u _ t ht => by
    unfold awHit; dsimp only; split <;> simpa using ht) rfl

@[simp] theorem awLook_path_held (w : UpWord) (s : State) : (awLook w s).path.held = s.path.held :=
  forEach_keeps (fun t => t.path.held = s.path.held) _ (fun u _ t ht => by
    unfold awHit; dsimp only; split <;> simpa using ht) rfl

@[simp] theorem awLook_path_port (w : UpWord) (s : State) : (awLook w s).path.port = s.path.port :=
  forEach_keeps (fun t => t.path.port = s.path.port) _ (fun u _ t ht => by
    unfold awHit; dsimp only; split <;> simpa using ht) rfl

@[simp] theorem awLook_path_count (w : UpWord) (s : State) : (awLook w s).path.count = s.path.count :=
  forEach_keeps (fun t => t.path.count = s.path.count) _ (fun u _ t ht => by
    unfold awHit; dsimp only; split <;> simpa using ht) rfl

@[simp] theorem awLook_path_pointer (w : UpWord) (s : State) : (awLook w s).path.pointer = s.path.pointer :=
  forEach_keeps (fun t => t.path.pointer = s.path.pointer) _ (fun u _ t ht => by
    unfold awHit; dsimp only; split <;> simpa using ht) rfl

@[simp] theorem awLook_path_ownPL (w : UpWord) (s : State) : (awLook w s).path.ownPL = s.path.ownPL :=
  forEach_keeps (fun t => t.path.ownPL = s.path.ownPL) _ (fun u _ t ht => by
    unfold awHit; dsimp only; split <;> simpa using ht) rfl

@[simp] theorem awLook_path_ownCU (w : UpWord) (s : State) : (awLook w s).path.ownCU = s.path.ownCU :=
  forEach_keeps (fun t => t.path.ownCU = s.path.ownCU) _ (fun u _ t ht => by
    unfold awHit; dsimp only; split <;> simpa using ht) rfl

@[simp] theorem awLook_path_ownSS (w : UpWord) (s : State) : (awLook w s).path.ownSS = s.path.ownSS :=
  forEach_keeps (fun t => t.path.ownSS = s.path.ownSS) _ (fun u _ t ht => by
    unfold awHit; dsimp only; split <;> simpa using ht) rfl

@[simp] theorem awLook_path_lastDone (w : UpWord) (s : State) : (awLook w s).path.lastDone = s.path.lastDone :=
  forEach_keeps (fun t => t.path.lastDone = s.path.lastDone) _ (fun u _ t ht => by
    unfold awHit; dsimp only; split <;> simpa using ht) rfl

@[simp] theorem awLook_writer_head (w : UpWord) (s : State) : (awLook w s).writer.head = s.writer.head :=
  forEach_keeps (fun t => t.writer.head = s.writer.head) _ (fun u _ t ht => by
    unfold awHit; dsimp only; split <;> simpa using ht) rfl

@[simp] theorem awLook_writer_tail (w : UpWord) (s : State) : (awLook w s).writer.tail = s.writer.tail :=
  forEach_keeps (fun t => t.writer.tail = s.writer.tail) _ (fun u _ t ht => by
    unfold awHit; dsimp only; split <;> simpa using ht) rfl

@[simp] theorem line_awLook (w : UpWord) (s : State) (i : Fin 24) : (awLook w s).line i = s.line i := by
  simp [State.line]

@[simp] theorem area_awLook (w : UpWord) (s : State) (i : Fin 8) : (awLook w s).area i = s.area i := by
  simp [State.area]

@[simp] theorem tap_awLook (w : UpWord) (s : State) (i : Fin 48) : (awLook w s).tap i = s.tap i := by
  simp [State.tap]

@[simp] theorem guard_awLook (w : UpWord) (s : State) (i : Fin 48) : (awLook w s).guard i = s.guard i := by
  simp [State.guard]

theorem awLook_unwatched (s : State) (w : UpWord) (h : s.unwatched w) : awLook w s = s := by
  unfold awLook; rw [h]; rfl

theorem keeps_awLook (s : State) (w : UpWord) : KeepsAllBut watchParts s (awLook w s) := (KeepsAllBut.refl s).awLook

@[simp] theorem watchersOf_write (s : State) (m : Master) (a : Addr) (v : Word) : watchersOf s ⟨m, a, .write v⟩ = [] := rfl

@[simp] theorem dataParts_write (s : State) (m : Master) (a : Addr) (v : Word) :
    s.dataParts ⟨m, a, .write v⟩ = [] := rfl

/-! ### Where words fall -/

@[simp] theorem planAddr_toNat (straps : BitVec 6) (off : Nat) (h : off ≤ 4095) :
    (planAddr straps off).toNat = straps.toNat * 1048576 + off := by
  have := straps.isLt
  simp only [planAddr, planBase, BitVec.toNat_ofNat]
  omega

@[simp] theorem planOffset_planAddr (straps : BitVec 6) (off : Nat) (h : off ≤ 4095) :
    planOffset straps (planAddr straps off) = some off := by
  have hb : planBase straps = 1048576 * straps.toNat := rfl
  unfold planOffset
  rw [planAddr_toNat straps off h, if_pos (by omega)]
  congr 1; omega

theorem region_planAddr (straps : BitVec 6) (live : Option Plan) (off : Nat) (h : off ≤ 4095) :
    regionOf straps live (planAddr straps off) = .planArea off := by
  unfold regionOf; rw [planOffset_planAddr straps off h]

/-! ### Taking a word -/

theorem presentWord_takes (s : State) (w : UpWord) (h : s.takes w) :
    presentWord w s = startTreatment w (watchersOf s w) (ownerTreatment w (awLook w s)).2
      (ownerTreatment w (awLook w s)).1 := by
  obtain ⟨⟨⟨h1, h2⟩, h3⟩, h4⟩ := h
  unfold presentWord takeWord
  simp [h1, h2, h3, h4]

theorem presentWord_fenced (s : State) (w : UpWord) (h : s.takesWords) (hf : fenced s w = true) :
    presentWord w s = finishWord w [] none (awLook w s) := by
  obtain ⟨⟨h1, h2⟩, h3⟩ := h
  unfold presentWord takeWord
  simp [h1, h2, h3, hf]

/-- What an owner makes of a word in the state AW's look left is decided by the region and the owner. -/
theorem ownerTreatment_awLook (s : State) (w : UpWord) :
    ownerTreatment w (awLook w s) =
      match s.region w.addr with
      | .planArea off => planAreaWord off w (awLook w s)
      | .aperture z j => withPlan w (awLook w s) fun p => teWord p z j w (awLook w s)
      | .zoneBuffer z half _ => withPlan w (awLook w s) fun p => zcWord p z half w (awLook w s)
      | .lineMemory l o => withPlan w (awLook w s) fun p => ltWord p l o w (awLook w s)
      | .noRegion => (awLook w s, plainTreatment w) := by
  unfold ownerTreatment State.region
  simp only [awLook_path_straps, awLook_loader] <;> rfl

/-- What the end of a word that no unit takes leaves. -/
@[simp] theorem finishWord_nil (w : UpWord) (x : Option Word) (s : State) :
    finishWord w [] x s = s.setPath { s.path with inHand := none, lastDone := some ⟨w, x⟩ } := rfl

theorem KeepsAllBut.setInHand {c : List Part} {s t : State} {x : Option InHand} (h : KeepsAllBut c s t)
    (hc : Part.inHand ∈ c := by decide) : KeepsAllBut c s (t.setPath { t.path with inHand := x }) :=
  h.trans fun q hq => by cases q <;> first | rfl | exact absurd hc hq

theorem KeepsAllBut.setDone {c : List Part} {s t : State} {x : Option InHand} {y : Option Completed}
    (h : KeepsAllBut c s t) (hc : ∀ q ∈ [Part.inHand, .lastDone], q ∈ c := by decide) :
    KeepsAllBut c s (t.setPath { t.path with inHand := x, lastDone := y }) :=
  h.trans fun q hq => by cases q <;> first | rfl | exact absurd (hc _ (by decide)) hq

/-- A write that is stored waits for its access. -/
theorem stores_of (s t : State) (m : Master) (a : Addr) (v x : Word) (parts : List Part)
    (h : KeepsAllBut (.inHand :: parts) (awLook ⟨m, a, .write v⟩ s) t) :
    Stores s (startTreatment ⟨m, a, .write v⟩ [] (alteredTreatment ⟨m, a, .write v⟩ x) t) ⟨m, a, .write v⟩ x parts :=
  ⟨rfl, h.setInHand (by simp)⟩

theorem stores_plain (s t : State) (m : Master) (a : Addr) (v : Word) (parts : List Part)
    (h : KeepsAllBut (.inHand :: parts) (awLook ⟨m, a, .write v⟩ s) t) :
    Stores s (startTreatment ⟨m, a, .write v⟩ [] (plainTreatment ⟨m, a, .write v⟩) t) ⟨m, a, .write v⟩ v parts :=
  ⟨rfl, h.setInHand (by simp)⟩

theorem dropped_of (s t : State) (m : Master) (a : Addr) (v : Word) (parts : List Part)
    (h : KeepsAllBut (.inHand :: .lastDone :: parts) (awLook ⟨m, a, .write v⟩ s) t) :
    Dropped s (startTreatment ⟨m, a, .write v⟩ [] droppedTreatment t) ⟨m, a, .write v⟩ parts :=
  ⟨rfl, rfl, h.setDone (by simp)⟩

theorem waitsFor_of (s t : State) (w : UpWord) (l : List Access) (f : Form) (parts : List Part)
    (h : KeepsAllBut (.inHand :: parts) (awLook w s) t) :
    WaitsFor s (startTreatment w (watchersOf s w) (.access l f) t) w l f parts :=
  ⟨rfl, h.setInHand (by simp)⟩

/-- A record that has its data keeps it. -/
theorem withData_twice (u : WatchUnit) (x : Option Word) : (u.withData x).withData x = u.withData x := by
  unfold WatchUnit.withData
  cases u.firstHit with
  | none => rfl
  | some h => cases hd : h.data <;> cases x <;> simp [hd]

/-- The completion of a read marks the words of every unit that matched it. -/
theorem marked_awDataAll (l : List (Fin 4)) (x : Option Word) (s : State) (u : Fin 4) (hu : u ∈ l) (n : Fin 4) :
    Marked (forEach l (awData x) s) (102 + 4 * u.val + n.val) := by
  have step (v : Fin 4) (t : State) (off : Nat) (h : Marked t off) : Marked (awData x v t) off :=
    Marked.statusChanges _ (h.congr rfl rfl)
  induction l generalizing s with
  | nil => simp at hu
  | cons v l ih =>
    rw [forEach_cons]
    rcases List.mem_cons.1 hu with rfl | h
    · refine forEach_keeps (Marked · (102 + 4 * u.val + n.val)) _ (fun v _ t ht => step v t _ ht) ?_
      exact marked_statusChanges _ _ _ (by simp [unitOffsets])
    · exact ih _ h

/-- The completion of a read reaches its first-hit records; nothing else of the state changes but AW's and RW's. -/
theorem keeps_awDataAll (l : List (Fin 4)) (x : Option Word) (s : State) :
    KeepsAllBut (.watch :: statusParts) s (forEach l (awData x) s) :=
  .forEach _ (fun _ _ hu => hu.awData) (.refl s)

/-- The completion of a read reaches exactly the units that matched it. -/
theorem unit_awDataAll (l : List (Fin 4)) (x : Option Word) (s : State) (u : Fin 4) :
    (forEach l (awData x) s).unit u = if u ∈ l then (s.unit u).withData x else s.unit u := by
  induction l generalizing s with
  | nil => simp
  | cons v l ih =>
    rw [forEach_cons, ih]
    by_cases huv : u = v
    · subst huv
      have : (awData x u s).unit u = (s.unit u).withData x := by simp [awData]
      rw [this]
      simp [withData_twice]
    · have : (awData x v s).unit u = s.unit u := by
        simp [awData, unit_setUnit_ne _ _ _ _ huv]
      rw [this]
      simp [huv]

theorem answered_of (s t : State) (w : UpWord) (x : Word) (parts : List Part)
    (h : KeepsAllBut (.inHand :: .lastDone :: parts) (awLook w s) t)
    (hwatch : Part.watch ∉ (.inHand :: .lastDone :: parts : List Part) := by decide) :
    Answered s (startTreatment w (watchersOf s w) (.complete (some x)) t) w x parts := by
  have hd := keeps_awDataAll (watchersOf s w) (some x)
    (t.setPath { t.path with inHand := none, lastDone := some ⟨w, some x⟩ })
  refine ⟨hd .inHand (by decide), hd .lastDone (by decide), fun u => ?_, fun u hu n => marked_awDataAll _ _ _ u hu n, ?_⟩
  · have hw : (t.setPath { t.path with inHand := none, lastDone := some ⟨w, some x⟩ }).watch = (awLook w s).watch :=
      h .watch hwatch
    refine (unit_awDataAll _ _ _ u).trans ?_
    unfold State.unit
    rw [hw]
  have h' : KeepsAllBut (.inHand :: .lastDone :: (s.dataParts w ++ parts)) (awLook w s)
      (t.setPath { t.path with inHand := none, lastDone := some ⟨w, some x⟩ }) :=
    (h.mono (by intro q hq; simp at hq ⊢; rcases hq with h | h | h <;> simp [h])).setDone (by simp)
  unfold startTreatment finishWord
  by_cases hw : watchersOf s w = []
  · rw [hw]; exact h'
  · exact h'.trans (hd.mono (by intro q hq; simp only [State.dataParts, if_neg hw]; simp [statusParts] at hq ⊢; rcases hq with h | h | h | h <;> simp [h]))

/-! ### A word taken, by the region it lies in (R87, R90) -/

theorem present_line {s : State} {p : Plan} {l : Fin 24} {o : Nat} {w : UpWord}
    (h : s.takes w) (hl : s.loader.live = some p) (hr : s.region w.addr = .lineMemory l o) :
    presentWord w s = startTreatment w (watchersOf s w) (ltWord p l o w (awLook w s)).2
      (ltWord p l o w (awLook w s)).1 := by
  rw [presentWord_takes s _ h, ownerTreatment_awLook, hr]
  simp [withPlan, hl]

theorem present_tap {s : State} {p : Plan} {z : Fin 48} {j : Nat} {w : UpWord}
    (h : s.takes w) (hl : s.loader.live = some p) (hr : s.region w.addr = .aperture z j) :
    presentWord w s = startTreatment w (watchersOf s w) (teWord p z j w (awLook w s)).2
      (teWord p z j w (awLook w s)).1 := by
  rw [presentWord_takes s _ h, ownerTreatment_awLook, hr]
  simp [withPlan, hl]

theorem present_zone {s : State} {p : Plan} {z : Fin 48} {half : Fin 2} {j : Nat} {w : UpWord}
    (h : s.takes w) (hl : s.loader.live = some p) (hr : s.region w.addr = .zoneBuffer z half j) :
    presentWord w s = startTreatment w (watchersOf s w) (zcWord p z half w (awLook w s)).2
      (zcWord p z half w (awLook w s)).1 := by
  rw [presentWord_takes s _ h, ownerTreatment_awLook, hr]
  simp [withPlan, hl]

theorem present_planArea {s : State} {off : Nat} {w : UpWord}
    (h : s.takes w) (hr : s.region w.addr = .planArea off) :
    presentWord w s = startTreatment w (watchersOf s w) (planAreaWord off w (awLook w s)).2
      (planAreaWord off w (awLook w s)).1 := by
  rw [presentWord_takes s _ h, ownerTreatment_awLook, hr]

theorem present_noRegion {s : State} {w : UpWord} (h : s.takes w) (hr : s.region w.addr = .noRegion) :
    presentWord w s = startTreatment w (watchersOf s w) (plainTreatment w) (awLook w s) := by
  rw [presentWord_takes s _ h, ownerTreatment_awLook, hr]

/-- A CORE write of the plan area that is neither protected nor an image write: its owner takes it, and it is stored. -/
theorem planAreaCommand_snooped {s : State} {off : Nat} {v : Word} (ho : off ≤ 4095) (h : s.takes (s.coreWord off v))
    (hp : protectedOffset off = false) (hi : ¬ (512 ≤ off ∧ off - 512 < 193)) :
    planAreaCommand .core off v s = startTreatment (s.coreWord off v) [] (plainTreatment (s.coreWord off v))
      (snoop off v (awLook (s.coreWord off v) s)) := by
  have := present_planArea (off := off) h (region_planAddr _ _ _ ho)
  unfold planAreaCommand
  have e : (⟨.core, planAddr s.path.straps off, .write v⟩ : UpWord) = s.coreWord off v := rfl
  rw [e, this]
  simp only [State.coreWord, planAreaWord, planAreaWrite, hp, Bool.false_eq_true, if_false, dif_neg hi, if_true,
    watchersOf_write]

/-- A write to an image word, whoever makes it. -/
theorem planAreaCommand_image {s : State} {m : Master} (i : Fin 193) {v : Word}
    (h : s.takes ⟨m, planAddr s.path.straps (512 + i.val), .write v⟩) :
    planAreaCommand m (512 + i.val) v s =
      startTreatment ⟨m, planAddr s.path.straps (512 + i.val), .write v⟩ []
        (ssImageWord i v ⟨m, planAddr s.path.straps (512 + i.val), .write v⟩
          (awLook ⟨m, planAddr s.path.straps (512 + i.val), .write v⟩ s)).2
        (ssImageWord i v ⟨m, planAddr s.path.straps (512 + i.val), .write v⟩
          (awLook ⟨m, planAddr s.path.straps (512 + i.val), .write v⟩ s)).1 := by
  have hi := i.isLt
  have hp : protectedOffset (512 + i.val) = false := by simp [protectedOffset]; omega
  unfold planAreaCommand
  rw [present_planArea (off := 512 + i.val) h (region_planAddr _ _ _ (by omega))]
  have hc : 512 ≤ 512 + i.val ∧ 512 + i.val - 512 < 193 := by omega
  have e : (⟨512 + i.val - 512, hc.2⟩ : Fin 193) = i := Fin.ext (by simp)
  simp only [planAreaWord, planAreaWrite, hp, Bool.false_eq_true, if_false, dif_pos hc, e, watchersOf_write]

theorem lineNo_val {n : Nat} {l : Fin 24} (h : l.val = n) : lineNo n = l :=
  Fin.ext (by rw [← h]; simp [lineNo, Fin.ofNat, Nat.mod_eq_of_lt l.isLt])

theorem areaNo_val {n : Nat} {a : Fin 8} (h : a.val = n) : areaNo n = a :=
  Fin.ext (by rw [← h]; simp [areaNo, Fin.ofNat, Nat.mod_eq_of_lt a.isLt])

/-! ### Words that pass plain, and what waits for a word's end -/

/-- No owner acts on a word that passes plain. -/
theorem ownerTreatment_plain {s : State} {w : UpWord} (hp : s.passesPlain w) :
    ownerTreatment w s = (s, plainTreatment w) := by
  rcases w with ⟨m, a, d⟩
  unfold ownerTreatment
  unfold State.passesPlain State.region at hp
  split at hp <;> rename_i hr <;> rw [hr]
  · exact hp.elim
  · obtain ⟨h1, h2⟩ := hp
    cases d with
    | write v => exact absurd h1 (by simp [isWrite])
    | read =>
      simp only [withPlan]
      split
      · rfl
      · unfold zcWord; cases m <;> first | rfl | exact absurd rfl h2
  · cases d with
    | write v => exact absurd hp (by simp [isWrite])
    | read => simp only [withPlan]; split <;> rfl
  · rename_i off
    cases d with
    | read => rfl
    | write v =>
      rcases hp with hp | ⟨h1, h2, h3⟩
      · exact absurd hp (by simp [isWrite])
      · have hi : ¬ (512 ≤ off ∧ off - 512 < 193) := by omega
        simp only [planAreaWord, planAreaWrite, h1, Bool.false_eq_true, if_false, dif_neg hi]
        split
        · rename_i hm
          have h4 := h3 hm
          simp only [snoopedOffset, Bool.or_eq_false_iff, decide_eq_false_iff_not, Bool.and_eq_false_iff] at h4
          obtain ⟨⟨⟨⟨⟨a1, a2⟩, a3⟩, a4⟩, a5⟩, a6⟩ := h4
          unfold snoop
          rw [if_neg a1, if_neg (by rintro ⟨x, y⟩; rcases a2 with h | h <;> omega), if_neg a3, if_neg a4, if_neg a5, if_neg (by simp [a6])]
        · rfl

/-- A word that no unit watches and that passes plain waits for its one access. -/
theorem takeWord_plain {s : State} {w : UpWord} (hd : s.command.device ≠ .starting) (hu : s.unwatched w)
    (hp : s.passesPlain w) :
    takeWord w s = s.setPath { s.path with inHand := some ⟨w, plainForm w, [plainAccess w], [], []⟩ } := by
  have hm : matchingUnits s w = [] := hu
  have ha : watchersOf s w = [] := by unfold watchersOf; rw [hm]; split <;> rfl
  have hf : fenced s w = false := by unfold fenced; rw [hm]; simp
  unfold takeWord
  rw [if_neg hd]
  simp only [hf, ha, awLook_unwatched _ _ hu, Bool.false_eq_true, if_false]
  rw [ownerTreatment_plain hp]
  rcases w with ⟨m, a, d⟩
  cases d <;> rfl

/-- R88: between two words an event is taken. -/
theorem deliver_between {s : State} (h : s.path.inHand = none) (e : SlowEvent) : deliver e s = takeEvent e s := by
  simp [deliver, h]

theorem deliver_inHand {s : State} (h : s.path.inHand ≠ none) (e : SlowEvent) :
    deliver e s = s.setPath { s.path with held := s.path.held ++ [e] } := by
  simp [deliver, Option.isSome_iff_ne_none, h]

theorem arrive_between {s : State} (h : s.betweenWords) (e : SlowEvent) : arrive e s = takeEvent e s := by
  simp [arrive, deliver, h.1, h.2]

/-- A word after which nothing waited leaves the state as it is. -/
theorem afterWord_idle {s : State} (hh : s.path.held = []) (hw : s.path.waiting = []) : afterWord s = s := by
  unfold afterWord
  rw [hh]
  dsimp only [takeHeld]
  rw [hw]
  dsimp only [takeWaiting]
  have : ({ s.path with waiting := [] } : MemPath) = s.path := by
    rw [← hw]
  rw [this]
  rfl

/-- Between words the end of an own access is taken once memory is written and the port is free (R98). -/
theorem ownComplete_between {s : State} {x : OwnAccess} {row : OwnCompletion} (hi : s.path.inHand = none)
    (hp : s.path.port = some (.own x)) (hr : completionOf x = some row) :
    ownComplete row s = takeEvent (endOf x s) (freePort (ownMemory x s)) := by
  unfold ownComplete
  rw [hp]
  dsimp only
  rw [if_pos hr]
  refine deliver_between ?_ _
  show (ownMemory x s).path.inHand = none
  unfold ownMemory
  split <;> exact hi

/-! ### Which units see a word (R145) -/

theorem matches_iff (u : WatchUnit) (w : UpWord) : u.matches w = true ↔ u.sees w := by
  unfold WatchUnit.matches WatchUnit.sees inWindow inMasterSet
  simp only [Bool.and_eq_true, decide_eq_true_eq]
  have hk : kindsAllow u.kinds (isWrite w.dir) = true ↔
      (u.kinds = .either ∨ (u.kinds = .read ∧ isWrite w.dir = false) ∨ (u.kinds = .write ∧ isWrite w.dir = true)) := by
    cases u.kinds <;> cases isWrite w.dir <;> simp [kindsAllow]
  rw [hk]
  tauto

theorem mem_matchingUnits (s : State) (w : UpWord) (u : Fin 4) : u ∈ matchingUnits s w ↔ (s.unit u).sees w := by
  simp [matchingUnits, matches_iff]

end Sys2Proof.Machine
end

