-- ==== Sys2Proof/Laws/Posts.lean ====
section
/-!
SUPPORT. What comes of a post that is taken: its word, the state CU's taking leaves, the effects and the answer.
-/
namespace Sys2Proof.Machine

/-- The code and the tag of a post word are those it was made of. -/
theorem postWord_fields {code : Nat} (hc : code < 256) (tag : BitVec 8) (unused : BitVec 16) :
    postCode (postWord code tag unused) = code ∧ postTag (postWord code tag unused) = tag := by
  have h2 := tag.isLt
  have h3 := unused.isLt
  have hw : (postWord code tag unused).toNat = tag.toNat + 256 * code + 65536 * unused.toNat := by
    unfold postWord word
    rw [BitVec.toNat_ofNat, Nat.mod_eq_of_lt (by omega)]
  constructor
  · unfold postCode bits
    rw [hw]
    simp
    omega
  · unfold postTag bits
    apply BitVec.eq_of_toNat_eq
    rw [BitVec.toNat_ofNat, hw]
    simp
    omega

/-- Each row that posts a code presents the post word of that code. -/
theorem exec_postRows {code tag : BitVec 8} {unused : BitVec 16} {c : Instr} (s : State)
    (hc : c ∈ postRows code tag unused) : exec c s = .next (postCommand code.toNat tag unused s) := by
  unfold postRows at hc
  simp only [List.cons_append, List.nil_append, List.mem_cons] at hc
  rcases hc with rfl | rfl | hc
  · rfl
  · rfl
  · split at hc <;> simp only [List.mem_cons, List.not_mem_nil, or_false] at hc
    all_goals rename_i hcode
    all_goals first
      | (subst hc; show _ = Host.Outcome.next (postCommand code.toNat tag unused s); rw [hcode]; rfl)
      | (rcases hc with rfl | rfl | rfl <;>
          (show _ = Host.Outcome.next (postCommand code.toNat tag unused s); rw [hcode]; rfl))

/-- The state in which a taken post takes effect: ANSWERING, the tag kept, the shadow latched (R128). -/
def State.slotTaken (s : State) (tag : BitVec 8) : State :=
  s.setCommand { s.command with slot := .answering, latched := s.command.shadow, lastTag := some tag }

/-- The outcome of a post does not depend on what the taking of it changes. -/
theorem postOutcome_slotTaken (s : State) (w : UpWord) (tag : BitVec 8) (code : Nat) (o : Vector Word 4) :
    postOutcome ((awLook w s).slotTaken tag) code o = postOutcome s code o := by
  have a2 : ((awLook w s).slotTaken tag).command.device = s.command.device := by simp [State.slotTaken]
  have a3 : ((awLook w s).slotTaken tag).loader = s.loader := by simp [State.slotTaken]
  have a4 : ((awLook w s).slotTaken tag).path.straps = s.path.straps := by simp [State.slotTaken]
  have a5 : ((awLook w s).slotTaken tag).yieldLevel = s.yieldLevel := by simp [State.slotTaken]
  unfold postOutcome ownConditionOk
  rw [a2, a3, a4, a5]

/-- R128: a post that is taken. -/
theorem postCommand_taken {s : State} {code : Nat} {tag : BitVec 8} {unused : BitVec 16} (hc : code < 256)
    (ht : s.takesPost code tag unused) {x : Answer} (hx : postOutcome s code s.command.shadow = x) :
    let w := s.postOf code tag unused
    let e := postEffects code x s.command.shadow ((awLook w s).slotTaken tag)
    postCommand code tag unused s = startTreatment w [] (plainTreatment w)
      (e.1.issue .cu (e.2 ++ [.answerWrite (answerWord tag x)])) := by
  intro w e
  obtain ⟨ht, hs⟩ := ht
  obtain ⟨c1, c2⟩ := postWord_fields hc tag unused
  have h0 : postCommand code tag unused s = startTreatment w [] (plainTreatment w)
      (snoop 0 (postWord code tag unused) (awLook w s)) :=
    planAreaCommand_snooped (by omega) ht (by decide) (by omega)
  rw [h0]
  congr 1
  unfold snoop cuPost
  rw [if_pos rfl, awLook_command, hs]
  dsimp only
  unfold cuTakePost
  rw [c1, c2]
  dsimp only
  have hsh : (awLook w s).command.shadow = s.command.shadow := by rw [awLook_command]
  have hs1 : (awLook w s).setCommand { (awLook w s).command with
      slot := .answering, latched := (awLook w s).command.shadow, lastTag := some tag } = (awLook w s).slotTaken tag := rfl
  have hl : ((awLook w s).slotTaken tag).command.latched = s.command.shadow := hsh
  rw [hs1, hl, postOutcome_slotTaken, hx]

/-- R131: a post that is refused. -/
theorem postCommand_refused {s : State} {code : Nat} {tag last : BitVec 8} {unused : BitVec 16} (hc : code < 256)
    (ht : s.takes (s.postOf code tag unused)) (hs : s.command.slot = .answering)
    (hl : s.command.lastTag = some last) :
    let w := s.postOf code tag unused
    postCommand code tag unused s = startTreatment w [] (plainTreatment w)
      ((awLook w s).request .commandRefused tag.toNat (word code) (word last.toNat)) := by
  intro w
  obtain ⟨c1, c2⟩ := postWord_fields hc tag unused
  have h0 : postCommand code tag unused s = startTreatment w [] (plainTreatment w)
      (snoop 0 (postWord code tag unused) (awLook w s)) :=
    planAreaCommand_snooped (by omega) ht (by decide) (by omega)
  rw [h0]
  congr 1
  unfold snoop cuPost
  rw [if_pos rfl, awLook_command, hs]
  dsimp only
  unfold cuRefusePost
  rw [c1, c2, awLook_command, hl]
  rfl

/-- What CU's taking of a post leaves, whatever the parts its effects touched. -/
theorem posted_of {s u : State} {code : Nat} {tag : BitVec 8} {unused : BitVec 16} {x : Answer}
    {details : List OwnAccess} {parts : List Part}
    (h : KeepsAllBut parts ((awLook (s.postOf code tag unused) s).slotTaken tag) u)
    (hp : ∀ q ∈ [Part.slot, .lastTag, .latched, .ownCU], q ∉ parts) :
    Posted s (startTreatment (s.postOf code tag unused) [] (plainTreatment (s.postOf code tag unused))
      (u.issue .cu (details ++ [.answerWrite (answerWord tag x)]))) code tag unused x details parts := by
  have h1 : u.command.slot = .answering := h .slot (hp _ (by decide))
  have h2 : u.command.lastTag = some tag := h .lastTag (hp _ (by decide))
  have h3 : u.command.latched = (awLook (s.postOf code tag unused) s).command.shadow := h .latched (hp _ (by decide))
  have h4 : u.path.ownCU = (awLook (s.postOf code tag unused) s).path.ownCU := h .ownCU (hp _ (by decide))
  refine ⟨h1, h2, h3.trans (by rw [awLook_command]), ?_, ?_⟩
  · show u.path.ownCU ++ _ = _
    rw [h4, awLook_path_ownCU]
  · refine stores_plain s _ .core (planAddr s.path.straps 0) (postWord code tag unused) _ (KeepsAllBut.issueCU ?_ ?_)
    · refine KeepsAllBut.trans (t := (awLook (s.postOf code tag unused) s).slotTaken tag) ?_ ?_
      · intro q hq
        cases q <;> first | rfl | (exfalso; apply hq; simp)
      · exact h.mono fun q hq => by simp [hq]
    · simp

/-- A post whose tests all pass is DONE (R129). -/
theorem postOutcome_done {s : State} {c : Command} {code : Nat} (hcode : commandOf code = some c) {o : Vector Word 4}
    (h1 : takenIn c s.command.device = true)
    (h2 : operandsOk (planBase s.path.straps) s.loader.live c o = true) (h3 : ownConditionOk s c o = true) :
    postOutcome s code o = .done := by
  unfold postOutcome
  rw [hcode]; dsimp only
  rw [if_pos h1, if_pos h2, if_pos h3]

/-- A number below n as a record number. -/
theorem finOfNat_val {n k : Nat} [NeZero n] {a : Fin n} (h : k = a.val) :
    Fin.ofNat n k = a := by
  subst h; apply Fin.ext; simp [Fin.ofNat, Nat.mod_eq_of_lt a.isLt]

/-- The records as a taken post finds them. -/
theorem slotTaken_records (s : State) (w : UpWord) (tag : BitVec 8) :
    let u := (awLook w s).slotTaken tag
    u.loader = s.loader ∧ (∀ a, u.area a = s.area a) ∧ (∀ z, u.tap z = s.tap z) ∧ (∀ z, u.guard z = s.guard z) ∧
      (∀ l, u.line l = s.line l) ∧ u.yieldLevel = s.yieldLevel ∧ u.command.lastStamp = s.command.lastStamp := by
  refine ⟨by simp [State.slotTaken], fun a => ?_, fun a => ?_, fun a => ?_, fun a => ?_, by simp [State.slotTaken],
    by simp [State.slotTaken]⟩
  · show (awLook w s).area a = _
    simp
  · show (awLook w s).tap a = _
    simp
  · show (awLook w s).guard a = _
    simp
  · show (awLook w s).line a = _
    simp

end Sys2Proof.Machine
end

