-- ==== Sys2Proof/Laws/Records.lean ====
section
/-!
SUPPORT. A block's work for each record of a list: what it leaves of one record, and what it makes happen.
-/
namespace Sys2Proof.Machine

/-- Work done for each record of a list without repeats leaves of each record what the work for that record leaves,
where the work for one record leaves the others alone; `C` is what the work depends on besides. -/
theorem forEach_record {ι ρ : Type} [DecidableEq ι] (get : State → ι → ρ) (C : State → Prop) (F : ι → ρ → ρ)
    (f : ι → State → State) (hC : ∀ i t, C t → C (f i t)) (hself : ∀ i t, C t → get (f i t) i = F i (get t i))
    (hne : ∀ i k t, C t → k ≠ i → get (f i t) k = get t k) (l : List ι) (hn : l.Nodup) (s : State) (hs : C s) (k : ι) :
    get (forEach l f s) k = if k ∈ l then F k (get s k) else get s k := by
  induction l generalizing s with
  | nil => simp
  | cons i l ih =>
    obtain ⟨hi, hl⟩ := List.nodup_cons.1 hn
    rw [forEach_cons, ih hl _ (hC i s hs)]
    by_cases hk : k = i
    · subst hk
      rw [if_neg hi, if_pos (by simp), hself _ _ hs]
    · rw [hne i k s hs hk]
      simp [hk]

/-- What the work for one record of the list makes happen, and the work for the others does not undo, has happened. -/
theorem forEach_event {ι ρ : Type} [DecidableEq ι] (get : State → ι → ρ) (C : State → Prop) (E : State → Prop)
    (P : ρ → Prop) (f : ι → State → State) (hC : ∀ i t, C t → C (f i t))
    (hne : ∀ i k t, C t → k ≠ i → get (f i t) k = get t k) (hE : ∀ i t, E t → E (f i t)) (l : List ι) (hn : l.Nodup)
    (s : State) (hs : C s) (k : ι) (hk : k ∈ l) (hP : P (get s k)) (hev : ∀ t, C t → P (get t k) → E (f k t)) :
    E (forEach l f s) := by
  induction l generalizing s with
  | nil => simp at hk
  | cons i l ih =>
    obtain ⟨hi, hl⟩ := List.nodup_cons.1 hn
    rw [forEach_cons]
    by_cases hki : k = i
    · subst hki
      exact forEach_keeps E l (fun j _ t ht => hE j t ht) (hev s hs hP)
    · rcases List.mem_cons.1 hk with h | h
      · exact absurd h hki
      · exact ih hl _ (hC i s hs) h (by rw [hne i k s hs hki]; exact hP)

theorem nodup_linesInUse (p : Plan) : p.linesInUse.Nodup := (List.nodup_finRange 24).filter _

theorem nodup_areasInUse (p : Plan) : p.areasInUse.Nodup := (List.nodup_finRange 8).filter _

theorem nodup_zonesInUse (p : Plan) : p.zonesInUse.Nodup := (List.nodup_finRange 48).filter _

@[simp] theorem mem_linesInUse (p : Plan) (l : Fin 24) : l ∈ p.linesInUse ↔ l.val < p.lineCount := by
  simp [Plan.linesInUse]

@[simp] theorem mem_areasInUse (p : Plan) (a : Fin 8) : a ∈ p.areasInUse ↔ a.val < p.areaCount := by
  simp [Plan.areasInUse]

@[simp] theorem mem_zonesInUse (p : Plan) (z : Fin 48) : z ∈ p.zonesInUse ↔ z.val < p.zoneCount := by
  simp [Plan.zonesInUse]

theorem nodup_zonesOf (p : Plan) (a : Fin 8) : (p.zonesOf a).Nodup := (nodup_zonesInUse p).filter _

@[simp] theorem mem_zonesOf (p : Plan) (a : Fin 8) (z : Fin 48) :
    z ∈ p.zonesOf a ↔ z.val < p.zoneCount ∧ p.zoneArea z.val = a.val := by
  simp [Plan.zonesOf]

/-! ### A record replaced leaves RW alone -/

theorem Marked.setLine {t : State} {off : Nat} (l : Fin 24) (r : LineRec) (h : Marked t off) :
    Marked (t.setLine l r) off := h

theorem Marked.setArea {t : State} {off : Nat} (a : Fin 8) (r : AreaRec) (h : Marked t off) :
    Marked (t.setArea a r) off := h

theorem Marked.setTap {t : State} {off : Nat} (z : Fin 48) (r : TapRec) (h : Marked t off) :
    Marked (t.setTap z r) off := h

theorem Marked.setGuard {t : State} {off : Nat} (z : Fin 48) (r : GuardRec) (h : Marked t off) :
    Marked (t.setGuard z r) off := h

theorem Marked.setUnit {t : State} {off : Nat} (u : Fin 4) (r : WatchUnit) (h : Marked t off) :
    Marked (t.setUnit u r) off := h

/-! ### Retarget notices (R50) -/

theorem tap_teNotice_self (z : Fin 48) (d : Nat) (t : State) :
    (teNotice z d t).tap z = { t.tap z with pendingTarget := noticed (t.tap z) d } := by
  unfold teNotice
  dsimp only
  split <;> simp

theorem tap_teNotice_ne (z k : Fin 48) (d : Nat) (t : State) (h : k ≠ z) : (teNotice z d t).tap k = t.tap k := by
  unfold teNotice
  dsimp only
  split <;> simp [tap_setTap_ne _ _ _ _ h]

theorem Marked.teNotice {off : Nat} {t : State} (z : Fin 48) (d : Nat) (h : Marked t off) :
    Marked (teNotice z d t) off := by
  unfold Machine.teNotice
  dsimp only
  split
  · exact h.congr rfl rfl
  · exact Marked.statusChange _ (h.congr rfl rfl)

/-- Notices to the zones of a list without repeats, each naming the delay `d` gives the zone. -/
theorem tap_notices (l : List (Fin 48)) (hn : l.Nodup) (d : Fin 48 → Nat) (s : State) (z : Fin 48) :
    (forEach l (fun z => Machine.teNotice z (d z)) s).tap z =
      if z ∈ l then { s.tap z with pendingTarget := noticed (s.tap z) (d z) } else s.tap z :=
  forEach_record (fun t a => t.tap a) (fun _ => True) (fun z r => { r with pendingTarget := noticed r (d z) }) _
    (fun _ _ _ => trivial) (fun _ _ _ => tap_teNotice_self _ _ _) (fun _ _ _ _ h => tap_teNotice_ne _ _ _ _ h) l hn s
    trivial z

/-- A notice that makes the pending target appear or go is a status change. -/
theorem marked_notices (l : List (Fin 48)) (hn : l.Nodup) (d : Fin 48 → Nat) (s : State) (z : Fin 48)
    (h : ((forEach l (fun z => Machine.teNotice z (d z)) s).tap z).pendingTarget.isSome ≠
      (s.tap z).pendingTarget.isSome) :
    Marked (forEach l (fun z => Machine.teNotice z (d z)) s) (54 + z.val) := by
  rw [tap_notices l hn d s z] at h
  have hz : z ∈ l := by
    by_cases hz : z ∈ l
    · exact hz
    · rw [if_neg hz] at h
      exact absurd rfl h
  rw [if_pos hz] at h
  refine forEach_event (fun t a => t.tap a) (fun _ => True) (Marked · (54 + z.val))
    (fun r => (noticed r (d z)).isSome ≠ r.pendingTarget.isSome) _ (fun _ _ _ => trivial)
    (fun _ _ _ _ h => tap_teNotice_ne _ _ _ _ h) (fun _ _ h => h.teNotice _ _) l hn s trivial z hz h ?_
  intro t _ hP
  unfold Machine.teNotice
  dsimp only
  rw [if_neg hP]
  exact marked_statusChange _ _

end Sys2Proof.Machine
end

