-- ==== Sys2Proof/Laws/Marks.lean ====
section
/-!
SUPPORT. What happens on the way through a frame mark and stays: a status change made, the reports asked for (every one
of them, in `frameWork_asks`); and what the mark leaves of every record.
-/
namespace Sys2Proof.Machine

/-- A predicate of RW's state that status changes keep, and requests of these kinds and subjects. -/
structure StableEvent (K : ReportKind → Nat → Prop) (E : State → Prop) : Prop where
  congr : ∀ {s t : State}, E s → t.writer = s.writer → t.path.ownRW = s.path.ownRW →
    t.command.lastStamp = s.command.lastStamp → E t
  statusChanges : ∀ {s : State} (l : List Nat), E s → E (s.statusChanges l)
  request : ∀ {s : State} (k : ReportKind) (n : Nat) (a b : Word), K k n → E s → E (s.request k n a b)

theorem stable_marked (K : ReportKind → Nat → Prop) (off : Nat) : StableEvent K (Marked · off) :=
  ⟨fun h hw hp _ => h.congr (by rw [hw]) hp, fun l h => h.statusChanges l, fun k n a b _ h => h.request k n a b⟩

/-- Nothing has been asked of RW but these reports and then some of these kinds and subjects. -/
def AsksThen (K : ReportKind → Nat → Prop) (stamp : Word) (s : State) (l : List Request) (t : State) : Prop :=
  t.command.lastStamp = stamp ∧ ∃ m, Asks stamp s t (l ++ m) ∧ ∀ q ∈ m, K q.kind q.subject

theorem stable_asksThen (K : ReportKind → Nat → Prop) (stamp : Word) (s : State) (l : List Request) :
    StableEvent K (AsksThen K stamp s l) where
  congr := fun h hw hp hc => ⟨hc.trans h.1, h.2.imp fun _ k => ⟨k.1.record hw hp, k.2⟩⟩
  statusChanges := fun offs h => ⟨by simpa using h.1, h.2.imp fun _ k => ⟨k.1.statusChanges offs, k.2⟩⟩
  request := by
    intro t k n a b hK h
    obtain ⟨hc, m, h1, h2⟩ := h
    refine ⟨by simpa using hc, m ++ [⟨k, n, a, b⟩], ?_, fun q hq => ?_⟩
    · rw [← List.append_assoc]; exact h1.request hc k n a b
    · rcases List.mem_append.1 hq with hq | hq
      · exact h2 q hq
      · rw [List.mem_singleton.1 hq]; exact hK

/-- Nothing has been asked of RW but these reports, under this stamp. -/
def AsksAt (stamp : Word) (s : State) (l : List Request) (t : State) : Prop :=
  t.command.lastStamp = stamp ∧ Asks stamp s t l

theorem stable_asksAt (stamp : Word) (s : State) (l : List Request) :
    StableEvent (fun _ _ => False) (AsksAt stamp s l) where
  congr := fun h hw hp hc => ⟨hc.trans h.1, h.2.record hw hp⟩
  statusChanges := fun offs h => ⟨by simpa using h.1, h.2.statusChanges offs⟩
  request := fun _ _ _ _ hK _ => hK.elim

theorem AsksAt.then {K : ReportKind → Nat → Prop} {stamp : Word} {s t : State} {l : List Request}
    (h : AsksAt stamp s l t) : AsksThen K stamp s l t := ⟨h.1, [], by simpa using h.2, by simp⟩

theorem AsksAt.request {stamp : Word} {s t : State} {l : List Request} (h : AsksAt stamp s l t) (k : ReportKind)
    (n : Nat) (a b : Word) : AsksAt stamp s (l ++ [⟨k, n, a, b⟩]) (t.request k n a b) :=
  ⟨by simpa using h.1, h.2.request h.1 k n a b⟩

/-- Work for each record of a list without repeats asks for what it asks for of each, in their order, where the work for
one record leaves the others alone; `C` is what the work depends on besides. -/
theorem forEach_asks {ι ρ : Type} (get : State → ι → ρ) (C : State → Prop) (Q : ι → ρ → List Request)
    (f : ι → State → State) {stamp : Word} {s : State} (hC : ∀ i t, C t → C (f i t))
    (hne : ∀ i k t, C t → k ≠ i → get (f i t) k = get t k)
    (hQ : ∀ i t l, C t → AsksAt stamp s l t → AsksAt stamp s (l ++ Q i (get t i)) (f i t)) (is : List ι)
    (hn : is.Nodup) (t : State) (ht : C t) (l : List Request) (h : AsksAt stamp s l t) :
    AsksAt stamp s (l ++ is.flatMap fun i => Q i (get t i)) (forEach is f t) := by
  induction is generalizing t l with
  | nil => simpa using h
  | cons i is ih =>
    obtain ⟨hi, his⟩ := List.nodup_cons.1 hn
    have h1 := ih his (f i t) (hC i t ht) _ (hQ i t l ht h)
    have e : (is.flatMap fun k => Q k (get (f i t) k)) = is.flatMap fun k => Q k (get t k) :=
      List.flatMap_congr fun k hk => by rw [hne i k t ht (fun h => hi (h ▸ hk))]
    rw [e, List.append_assoc] at h1
    exact h1

namespace StableEvent

variable {K : ReportKind → Nat → Prop} {E : State → Prop} {s : State}

theorem statusChange (hE : StableEvent K E) (off : Nat) (h : E s) : E (s.statusChange off) := hE.statusChanges [off] h

theorem record {t : State} (hE : StableEvent K E) (h : E s) (hw : t.writer = s.writer := by rfl)
    (hp : t.path.ownRW = s.path.ownRW := by rfl) (hc : t.command.lastStamp = s.command.lastStamp := by rfl) : E t :=
  hE.congr h hw hp hc

theorem teNotice (hE : StableEvent K E) (z : Fin 48) (d : Nat) (h : E s) : E (teNotice z d s) := by
  unfold Machine.teNotice
  dsimp only
  split
  · exact hE.record h
  · exact hE.statusChange _ (hE.record h)

theorem teMarkZone (hE : StableEvent K E) (p : Plan) (z : Fin 48) (h : E s) : E (teMarkZone p z s) := by
  unfold Machine.teMarkZone
  dsimp only
  split
  · exact hE.statusChange _ (hE.record h)
  · exact hE.record h

theorem seSwitch (hE : StableEvent K E) (p : Plan) (a : Fin 8) (r : AreaRec) (x : Option (Fin 8))
    (hK : K .elected a.val) (h : E s) :
    E (seSwitch p a r x s) := by
  have h1 : E (((s.setArea a { r with elected := x, dwell := 0, quiet := 0 }).request .elected a.val
      (word (sourceCode r.elected)) (word (sourceCode x))).statusChange (areaOffset a)) :=
    hE.statusChange _ (hE.request _ _ _ _ hK (hE.record h))
  unfold Machine.seSwitch
  cases x
  · exact h1
  · exact forEach_keeps E _ (fun _ _ _ ht => hE.teNotice _ _ ht) h1

theorem seDecide (hE : StableEvent K E) (p : Plan) (a : Fin 8) (hK : K .elected a.val) (h : E s) :
    E (seDecide p a s) := by
  unfold Machine.seDecide
  dsimp only
  split
  · exact hE.record h
  · split
    · exact hE.record h
    · exact hE.seSwitch _ _ _ _ hK h

theorem seDecideAndEmpty (hE : StableEvent K E) (p : Plan) (a : Fin 8) (hK : K .elected a.val) (h : E s) :
    E (seDecideAndEmpty p a s) := hE.record (hE.seDecide p a hK h)

theorem seTake (hE : StableEvent K E) (p : Plan) (a i : Fin 8) (m : Word) (l : Level)
    (hK : K .elected a.val) (h : E s) : E (seTake p a i m l s) := by
  unfold Machine.seTake
  split
  · dsimp only
    have h1 : E (if (s.area a).closedBy m then Machine.seDecideAndEmpty p a s else s) := by
      split
      · exact hE.seDecideAndEmpty p a hK h
      · exact h
    generalize (if (s.area a).closedBy m then Machine.seDecideAndEmpty p a s else s) = u at h1 ⊢
    split
    · exact hE.seDecideAndEmpty p a hK (hE.record h1)
    · exact hE.record h1
  · exact h

theorem ltMarkLine (hE : StableEvent K E) (p : Plan) (l : Fin 24) (hK : K .lineRecovered l.val) (h : E s) :
    E (ltMarkLine p l s) := by
  unfold Machine.ltMarkLine
  dsimp only
  split
  · exact h
  · exact hE.statusChange _ (hE.record h)
  · exact hE.record h
  · split
    · split
      · exact hE.statusChange _ (hE.request _ _ _ _ hK (hE.record h))
      · exact hE.record h
    · exact hE.record h

theorem ltReports (hE : StableEvent K E) (p : Plan) (m : Word) (l : Fin 24)
    (hK : ∀ a : Fin 8, a.val < p.areaCount → K .elected a.val) (h : E s) : E (ltReports p m l s) := by
  unfold Machine.ltReports
  split
  · refine forEach_keeps E _ (fun a ha t ht => ?_) h
    unfold ltReportTo
    split
    · exact ht
    · exact hE.seTake _ _ _ _ _ (hK a ((mem_areasInUse p a).1 ha)) ht
  · exact h

theorem ltClearFrames (hE : StableEvent K E) (l : List (Fin 24)) (h : E s) : E (forEach l ltClearFrame s) :=
  forEach_keeps E _ (fun _ _ _ ht => hE.record ht) h

theorem ltMark (hE : StableEvent K E) (p : Plan) (m : Word)
    (hL : ∀ l : Fin 24, l.val < p.lineCount → K .lineRecovered l.val)
    (hA : ∀ a : Fin 8, a.val < p.areaCount → K .elected a.val) (h : E s) : E (ltMark p m s) :=
  hE.ltClearFrames _
    (forEach_keeps E _ (fun _ _ _ ht => hE.ltReports _ _ _ hA ht)
      (forEach_keeps E _ (fun l hl _ ht => hE.ltMarkLine _ _ (hL l ((mem_linesInUse p l).1 hl)) ht) h))

theorem teMark (hE : StableEvent K E) (p : Plan) (h : E s) : E (teMark p s) :=
  forEach_keeps E _ (fun _ _ _ ht => hE.teMarkZone _ _ ht) h

theorem zcLapse (hE : StableEvent K E) (z : Fin 48) (hK : K .zoneState z.val) (h : E s) : E (zcLapse z s) := by
  unfold Machine.zcLapse
  dsimp only
  split
  · exact hE.record h
  · split
    · split
      · exact hE.record h
      · exact hE.statusChange _ (hE.record h)
    · exact hE.statusChange _ (hE.request _ _ _ _ hK (hE.record h))

theorem zcMarkZone (hE : StableEvent K E) (p : Plan) (z : Fin 48) (hK : K .zoneState z.val) (h : E s) :
    E (zcMarkZone p z s) := by
  unfold Machine.zcMarkZone
  split
  · unfold zcFed
    dsimp only
    split
    · exact hE.record h
    · exact hE.statusChange _ (hE.record h)
    · exact hE.statusChange _ (hE.record h)
    · exact hE.statusChange _ (hE.request _ _ _ _ hK (hE.record h))
  · unfold zcUnfed
    dsimp only
    split
    · exact hE.record h
    · exact hE.zcLapse z hK h
    · exact hE.zcLapse z hK h
    · split <;> exact hE.record h

theorem zcMark (hE : StableEvent K E) (p : Plan) (hZ : ∀ z : Fin 48, z.val < p.zoneCount → K .zoneState z.val)
    (h : E s) : E (zcMark p s) :=
  forEach_keeps E _ (fun z hz _ ht => hE.zcMarkZone _ _ (hZ z ((mem_zonesInUse p z).1 hz)) ht) h

/-- The notices of a swap, and what the blocks take from the new plan before them. -/
theorem swapNotices (hE : StableEvent K E) (p q : Plan) (h : E s) :
    E (forEach q.zonesInUse (swapNotice q) (teSwap q (seSwap p q (plSwapPlans q s)))) := by
  refine forEach_keeps E _ (fun z _ t ht => ?_) ?_
  · unfold swapNotice
    split
    · exact ht
    · exact hE.teNotice _ _ ht
  · refine forEach_keeps E _ (fun z _ t ht => hE.record ht) ?_
    refine forEach_keeps E _ (fun a _ t ht => hE.record ht) ?_
    exact hE.record h

theorem plMark (hE : StableEvent K E) (p : Plan) (hK : K .planSwapped 0) (h : E s) : E (plMark p s) := by
  unfold Machine.plMark
  split
  · split
    · exact h
    · exact hE.statusChange _ (hE.request _ _ _ _ hK (hE.swapNotices _ _ h))
  · exact h

end StableEvent

/-! ### The frame mark as a word (R125) -/

/-- The state in which the blocks find a frame mark: AW has looked at its word and the stamp is set. -/
def State.stamped (s : State) (stamp : Word) : State :=
  (awLook (s.coreWord 8 stamp) s).setCommand { (awLook (s.coreWord 8 stamp) s).command with lastStamp := stamp }

/-- A frame mark under a live plan: the blocks' work, then the word waits to reach memory. -/
theorem exec_frameMark {s : State} {p : Plan} {stamp : Word} {c : Instr} (hc : c ∈ frameMarkRows stamp)
    (h : s.takes (s.coreWord 8 stamp)) (hl : s.loader.live = some p) :
    exec c s = .next (startTreatment (s.coreWord 8 stamp) [] (plainTreatment (s.coreWord 8 stamp))
      (frameWork p stamp (s.stamped stamp))) := by
  have e : exec c s = .next (planAreaCommand .core 8 stamp s) := by
    simp only [frameMarkRows, List.mem_cons, List.not_mem_nil, or_false] at hc
    rcases hc with h | h | h | h | h <;> subst h <;> rfl
  rw [e]
  refine congrArg Host.Outcome.next ((planAreaCommand_snooped (by omega) h (by decide) (by omega)).trans ?_)
  congr 1
  show cuFrameMark stamp (awLook (s.coreWord 8 stamp) s) = _
  unfold cuFrameMark
  rw [awLook_loader, hl]
  simp [State.stamped]

theorem stamped_records (s : State) (stamp : Word) :
    let u := s.stamped stamp
    u.loader = s.loader ∧ (∀ a, u.area a = s.area a) ∧ (∀ z, u.tap z = s.tap z) ∧ (∀ z, u.guard z = s.guard z) ∧
      (∀ l, u.line l = s.line l) ∧ u.store = s.store ∧ u.command = { s.command with lastStamp := stamp } := by
  refine ⟨by simp [State.stamped], fun a => ?_, fun a => ?_, fun a => ?_, fun a => ?_, by simp [State.stamped],
    by simp [State.stamped]⟩
  · show (awLook _ s).area a = _
    simp
  · show (awLook _ s).tap a = _
    simp
  · show (awLook _ s).guard a = _
    simp
  · show (awLook _ s).line a = _
    simp

/-! ### The reports of a frame mark (1.8, R74, R117) -/

/-- The report of a line's work at a mark (R11). -/
def recoveryAsks (p : Plan) (l : Fin 24) (r : LineRec) : List Request :=
  if r.cond = .faulted ∧ r.writeSeen = true ∧ r.jumpSeen = false ∧ p.recoverFrames l.val ≤ r.quiet + 1 then
    [⟨.lineRecovered, l.val, r.head, word (r.quiet + 1)⟩]
  else []

theorem ltMarkLine_asks {stamp : Word} {s t : State} {m : List Request} (p : Plan) (l : Fin 24)
    (h : AsksAt stamp s m t) : AsksAt stamp s (m ++ recoveryAsks p l (t.line l)) (ltMarkLine p l t) := by
  have hE := stable_asksAt stamp s
  unfold ltMarkLine recoveryAsks
  have e : (t.line l).latched.cond = (t.line l).cond := rfl
  dsimp only
  rw [e]
  cases hc : (t.line l).cond
  · simpa using h
  · simpa using (hE m).statusChange _ ((hE m).record h)
  · simpa using (hE m).record h
  · by_cases hq : (t.line l).latched.cleanFrame = true
    · have hw : (t.line l).writeSeen = true ∧ (t.line l).jumpSeen = false := by
        simpa [LineRec.cleanFrame, LineRec.latched] using hq
      by_cases hr : p.recoverFrames l.val ≤ (t.line l).quiet + 1
      · rw [if_pos hq, if_pos (show p.recoverFrames l.val ≤ (t.line l).latched.quiet + 1 from hr),
          if_pos ⟨rfl, hw.1, hw.2, hr⟩]
        exact (hE _).statusChange _ (((hE m).record h).request _ _ _ _)
      · rw [if_pos hq, if_neg (show ¬ p.recoverFrames l.val ≤ (t.line l).latched.quiet + 1 from hr),
          if_neg (fun h => hr h.2.2.2), List.append_nil]
        exact (hE m).record h
    · have hw : ¬ ((t.line l).writeSeen = true ∧ (t.line l).jumpSeen = false) := by
        simpa [LineRec.cleanFrame, LineRec.latched] using hq
      rw [if_neg hq, if_neg (fun h => hw ⟨h.2.1, h.2.2.1⟩), List.append_nil]
      exact (hE m).record h

/-- The report of a zone's work at a mark (R72, R73). -/
def feedAsks (p : Plan) (e : Entries) (z : Fin 48) (g : GuardRec) : List Request :=
  if p.frameLen ≤ g.fed then
    (if g.state = .fallback then [⟨.zoneState, z.val, 1, word g.fade⟩] else [])
  else if (g.state = .live ∨ g.state = .lapsing) ∧ e.watchFrames ≠ 0 ∧ e.watchFrames ≤ g.miss + 1 then
    [⟨.zoneState, z.val, 3, word e.mode.code⟩]
  else []

theorem zcLapse_asks {stamp : Word} {s t : State} {m : List Request} (z : Fin 48) (h : AsksAt stamp s m t) :
    AsksAt stamp s (m ++ (if (t.store.effective z).watchFrames ≠ 0 ∧
        (t.store.effective z).watchFrames ≤ (t.guard z).miss + 1 then
      [⟨.zoneState, z.val, 3, word (t.store.effective z).mode.code⟩] else [])) (zcLapse z t) := by
  have hE := stable_asksAt stamp s
  unfold zcLapse
  dsimp only
  by_cases h0 : (t.store.effective z).watchFrames = 0
  · rw [if_pos h0, if_neg (fun h => h.1 h0), List.append_nil]; exact (hE m).record h
  · rw [if_neg h0]
    by_cases h1 : (t.guard z).miss + 1 < (t.store.effective z).watchFrames
    · rw [if_pos h1, if_neg (fun h => absurd h.2 (by omega)), List.append_nil]
      split
      · exact (hE m).record h
      · exact (hE m).statusChange _ ((hE m).record h)
    · rw [if_neg h1, if_pos ⟨h0, by omega⟩]
      exact (hE _).statusChange _ (((hE m).record h).request _ _ _ _)

theorem zcMarkZone_asks {stamp : Word} {s t : State} {m : List Request} (p : Plan) (z : Fin 48)
    (h : AsksAt stamp s m t) :
    AsksAt stamp s (m ++ feedAsks p (t.store.effective z) z (t.guard z)) (zcMarkZone p z t) := by
  have hE := stable_asksAt stamp s
  unfold zcMarkZone feedAsks
  split
  · unfold zcFed
    dsimp only
    cases hc : (t.guard z).state
    · simpa using (hE m).statusChange _ ((hE m).record h)
    · simpa using (hE m).record h
    · simpa using (hE m).statusChange _ ((hE m).record h)
    · exact (hE _).statusChange _ (((hE m).record h).request _ _ _ _)
  · unfold zcUnfed
    dsimp only
    cases hc : (t.guard z).state
    · simpa using (hE m).record h
    · simpa using zcLapse_asks z h
    · simpa using zcLapse_asks z h
    · simp only [reduceCtorEq, or_self, false_and, if_false, List.append_nil]
      split <;> exact (hE m).record h

theorem guard_zcMarkZone_ne (p : Plan) (z k : Fin 48) (t : State) (h : k ≠ z) :
    (zcMarkZone p z t).guard k = t.guard k := by
  unfold zcMarkZone zcFed zcUnfed zcLapse
  dsimp only
  repeat' split
  all_goals simp [guard_setGuard_ne _ _ _ _ h]

theorem line_ltMarkLine_ne (p : Plan) (l k : Fin 24) (t : State) (h : k ≠ l) :
    (ltMarkLine p l t).line k = t.line k := by
  unfold ltMarkLine
  dsimp only
  repeat' split
  all_goals simp [line_setLine_ne _ _ _ _ h]

/-- The report of the swap of a mark (R117), if it swaps. -/
def swapAsks (p : Plan) (s : State) : List Request :=
  if s.loader.state = .waitingSwap then
    match s.loader.standby with
    | none => []
    | some q => [⟨.planSwapped, 0, q.planSum, word (swapNoticeCount q (teSwap q (seSwap p q (plSwapPlans q s))))⟩]
  else []

theorem plMark_asks {stamp : Word} {s t : State} {m : List Request} (p : Plan) (h : AsksAt stamp s m t) :
    AsksAt stamp s (m ++ swapAsks p t) (plMark p t) := by
  unfold plMark swapAsks
  split
  · cases t.loader.standby with
    | none => simpa using h
    | some q =>
      exact (stable_asksAt _ _ _).statusChange _ (((stable_asksAt stamp s m).swapNotices p q h).request _ _ _ _)
  · simpa using h

/-- Reports of one kind asked for of each record of a list without repeats: those about one record. -/
theorem requestsOf_flatMap {ι : Type} (kind : ReportKind) (sub : ι → Nat) (hsub : ∀ i j, sub i = sub j → i = j)
    (Q : ι → List Request) (hQ : ∀ i, ∀ q ∈ Q i, q.kind = kind ∧ q.subject = sub i) (is : List ι) (hn : is.Nodup)
    (k : ι) (hk : k ∈ is) : requestsOf kind (sub k) (is.flatMap Q) = Q k := by
  induction is with
  | nil => simp at hk
  | cons i is ih =>
    obtain ⟨hi, his⟩ := List.nodup_cons.1 hn
    have other : ∀ j, j ≠ k → requestsOf kind (sub k) (Q j) = [] := fun j hj =>
      List.filter_eq_nil_iff.2 fun q hq => by
        have := hQ j q hq
        simp [this.2]
        exact fun _ h => hj (hsub _ _ h)
    rw [List.flatMap_cons]
    unfold requestsOf at *
    rw [List.filter_append]
    by_cases h : i = k
    · subst h
      have e1 : (Q i).filter (fun q => decide (q.kind = kind ∧ q.subject = sub i)) = Q i :=
        List.filter_eq_self.2 fun q hq => by simp [hQ i q hq]
      have e2 : (is.flatMap Q).filter (fun q => decide (q.kind = kind ∧ q.subject = sub i)) = [] := by
        rw [List.filter_eq_nil_iff]
        intro q hq
        obtain ⟨j, hj, hjq⟩ := List.mem_flatMap.1 hq
        have := hQ j q hjq
        simp [this.2]
        exact fun _ h => hi (by rw [← hsub _ _ h]; exact hj)
      rw [e1, e2, List.append_nil]
    · rw [other i h, List.nil_append]
      exact ih his ((List.mem_cons.1 hk).resolve_left fun e => h e.symm)

/-- Reports of other kinds or records are none about this one. -/
theorem requestsOf_none (kind : ReportKind) (n : Nat) (l : List Request)
    (h : ∀ q ∈ l, ¬ (q.kind = kind ∧ q.subject = n)) : requestsOf kind n l = [] :=
  List.filter_eq_nil_iff.2 fun q hq => by simpa using h q hq

theorem requestsOf_append (kind : ReportKind) (n : Nat) (l m : List Request) :
    requestsOf kind n (l ++ m) = requestsOf kind n l ++ requestsOf kind n m := List.filter_append ..

/-- R11, R31, R72, R73, R117: what a frame mark asks of RW: the recoveries of lines, the switches of areas, the
changes of zones, and a swap's report, in the model's order (assumption log 18, 30). -/
theorem frameWork_asks (p : Plan) (stamp : Word) {s : State} (t : State) (h : AsksAt stamp s [] t) :
    ∃ se, AsksAt stamp s
        (((p.linesInUse.flatMap fun l => recoveryAsks p l (t.line l)) ++ se) ++
          (p.zonesInUse.flatMap fun z => feedAsks p (t.store.effective z) z (t.guard z)) ++
            swapAsks p (zcMark p (ltMark p stamp (teMark p t)))) (frameWork p stamp t) ∧
      ∀ q ∈ se, q.kind = .elected ∧ q.subject < p.areaCount := by
  have h1 : AsksAt stamp s [] (teMark p t) := (stable_asksAt stamp s []).teMark p h
  have e1 : ∀ l, (teMark p t).line l = t.line l := fun l => by
    have k : KeepsAllBut ([.taps] ++ statusParts) t (teMark p t) := (KeepsAllBut.refl t).teMark
    have := k .lines (by decide)
    unfold State.line; rw [this]
  have h2 := forEach_asks (fun u l => u.line l) (fun _ => True) (recoveryAsks p) (ltMarkLine p) (fun _ _ _ => trivial)
    (fun i k u _ hk => line_ltMarkLine_ne p i k u hk) (fun i u l _ hu => ltMarkLine_asks p i hu) p.linesInUse
    (nodup_linesInUse p) (teMark p t) trivial [] h1
  simp only [e1, List.nil_append] at h2
  generalize (p.linesInUse.flatMap fun l => recoveryAsks p l (t.line l)) = la at *
  let K : ReportKind → Nat → Prop := fun k n => k = .elected ∧ n < p.areaCount
  have hE := stable_asksThen K stamp s la
  have h3 : AsksThen K stamp s la (ltMark p stamp (teMark p t)) :=
    hE.ltClearFrames _ (forEach_keeps _ _ (fun l _ u hu => hE.ltReports p stamp l (fun a ha => ⟨rfl, ha⟩) hu) h2.then)
  obtain ⟨hc, se, hse, hk⟩ := h3
  have k3 : KeepsAllBut ([.taps, .lines, .areas] ++ reportParts) t (ltMark p stamp (teMark p t)) :=
    ((KeepsAllBut.refl t).teMark).ltMark
  have e3 : ∀ z, (ltMark p stamp (teMark p t)).guard z = t.guard z := fun z => by
    have := k3 .guards (by decide); unfold State.guard; rw [this]
  have e4 : (ltMark p stamp (teMark p t)).store = t.store := by
    have a1 := k3 .words (by decide); have a2 := k3 .storeCond (by decide); have a3 := k3 .programming (by decide)
    have a4 := k3 .permit (by decide); have a5 := k3 .imageCursor (by decide); have a6 := k3 .checkPending (by decide)
    generalize (ltMark p stamp (teMark p t)) = v at *
    cases hv : v.store; cases ht : t.store
    simp_all [Same]
  have h4 := forEach_asks (fun u z => u.guard z) (fun u => u.store = t.store)
    (fun z g => feedAsks p (t.store.effective z) z g) (zcMarkZone p)
    (fun i u hu => by
      rw [← hu]; unfold zcMarkZone zcFed zcUnfed zcLapse; dsimp only
      repeat' split
      all_goals simp)
    (fun i k u _ hk => guard_zcMarkZone_ne p i k u hk) (fun i u l hu hl => by
      have := zcMarkZone_asks p i hl
      rw [hu] at this; exact this) p.zonesInUse
    (nodup_zonesInUse p) _ e4 _ ⟨hc, hse⟩
  simp only [e3] at h4
  exact ⟨se, plMark_asks p h4, hk⟩

/-! ### The reports of words (R46, R146) -/

/-- The reports of AW's look at a word (R146, R148). -/
def hitAsks (w : UpWord) (u : Fin 4) (r : WatchUnit) : List Request :=
  if r.firstHit = none then
    [⟨.watchHit, u.val, addrWord w.addr, word (masterCode w.master + 256 * (if isWrite w.dir then 2 else 1))⟩]
  else []

theorem awHit_asks {stamp : Word} {s t : State} {m : List Request} (w : UpWord) (u : Fin 4) (h : AsksAt stamp s m t) :
    AsksAt stamp s (m ++ hitAsks w u (t.unit u)) (awHit w u t) := by
  unfold awHit hitAsks
  dsimp only
  cases hf : (t.unit u).firstHit with
  | none =>
    rw [if_pos rfl]
    exact ((stable_asksAt stamp s m).statusChanges _ ((stable_asksAt stamp s m).record h)).request _ _ _ _
  | some f =>
    rw [if_neg (by simp), List.append_nil]
    exact (stable_asksAt stamp s m).statusChanges _ ((stable_asksAt stamp s m).record h)

theorem unit_awHit_ne (w : UpWord) (u k : Fin 4) (t : State) (h : k ≠ u) : (awHit w u t).unit k = t.unit k := by
  unfold awHit; dsimp only; split <;> simp [unit_setUnit_ne _ _ _ _ h]

theorem awLook_asks (w : UpWord) (s : State) :
    AsksAt s.command.lastStamp s ((matchingUnits s w).flatMap fun u => hitAsks w u (s.unit u)) (awLook w s) := by
  have h := forEach_asks (fun t u => t.unit u) (fun _ => True) (hitAsks w) (awHit w) (fun _ _ _ => trivial)
    (fun u k t _ hk => unit_awHit_ne w u k t hk) (fun u _ _ _ hu => awHit_asks w u hu) (matchingUnits s w)
    ((List.nodup_finRange 4).filter _) s trivial [] ⟨rfl, asks_refl _ s⟩
  rw [List.nil_append] at h
  exact h

/-- R46: the report of a position found early or late, where its kind is not yet reported. -/
theorem teBoundFailure_asks {stamp : Word} {s t : State} {m : List Request} (z : Fin 48) (d : Nat) (x : Int) (b : Bound)
    (h : AsksAt stamp s m t) :
    AsksAt stamp s (m ++ match b with
      | .good => []
      | .early => if (t.tap z).earlyReported then [] else [⟨.tapEarly, z.val, word d, ofSample x⟩]
      | .late => if (t.tap z).lateReported then [] else [⟨.tapLate, z.val, word d, ofSample x⟩])
      (teBoundFailure z d x b t) := by
  unfold teBoundFailure
  cases b
  · simpa using h
  all_goals
    dsimp only
    split
    · simpa using h
    · exact ((stable_asksAt stamp s m).record h).request _ _ _ _

end Sys2Proof.Machine
end

