-- ==== Sys2Proof/Laws/Memory.lean ====
section
/-!
SUPPORT. What memory operations do: reading after writing, and the canonical form every write keeps.
-/
namespace Sys2Proof.Machine

theorem read_unlisted_below (m : Memory) (a : Nat) (h : ∀ c ∈ m, a < c.1) : m.read a = Memory.unlisted := by
  induction m with
  | nil => rfl
  | cons c rest ih =>
    have h0 : a < c.1 := h c (by simp)
    simp only [Memory.read]
    rw [if_neg (by omega)]
    exact ih fun d hd => h d (by simp [hd])

/-- Reading another address than the one written. -/
theorem read_write_ne (m : Memory) (a b : Nat) (v : Word) (h : b ≠ a) : (m.write a v).read b = m.read b := by
  induction m with
  | nil => by_cases hv : v = Memory.unlisted <;> simp [Memory.write, Memory.read, hv, h]
  | cons c rest ih =>
    simp only [Memory.write]
    split
    · split
      · rfl
      · simp [Memory.read, h]
    · split
      · split
        · simp [Memory.read]; intro hb; omega
        · simp [Memory.read]; rw [if_neg (by omega), if_neg (by omega)]
      · simp only [Memory.read]; rw [ih]

/-- Reading the address written, in a canonical memory. -/
theorem read_write_self (m : Memory) (a : Nat) (v : Word) (hm : m.Pairwise (fun x y => x.1 < y.1)) :
    (m.write a v).read a = v := by
  induction m with
  | nil => by_cases hv : v = Memory.unlisted <;> simp [Memory.write, Memory.read, hv]
  | cons c rest ih =>
    obtain ⟨hc, hrest⟩ := List.pairwise_cons.1 hm
    simp only [Memory.write]
    split
    · rename_i hlt
      split
      · rename_i hv
        simp only [Memory.read]
        rw [if_neg (by omega), read_unlisted_below _ _ fun d hd => Nat.lt_trans hlt (hc d hd), hv]
      · simp [Memory.read]
    · split
      · rename_i heq
        split
        · rename_i hv
          rw [heq, read_unlisted_below _ _ hc, hv]
        · simp [Memory.read, heq]
      · rename_i hne
        simp only [Memory.read]
        rw [if_neg hne, ih hrest]

theorem mem_write (m : Memory) (a : Nat) (v : Word) (c : Nat × Word) (hc : c ∈ m.write a v) :
    c = (a, v) ∧ v ≠ Memory.unlisted ∨ c ∈ m := by
  induction m with
  | nil =>
    by_cases hv : v = Memory.unlisted <;> simp [Memory.write, hv] at hc
    exact .inl ⟨hc, hv⟩
  | cons d rest ih =>
    simp only [Memory.write] at hc
    split at hc
    · split at hc
      · exact .inr hc
      · rename_i hv
        rcases List.mem_cons.1 hc with h | h
        · exact .inl ⟨h, hv⟩
        · exact .inr h
    · split at hc
      · rename_i heq
        split at hc
        · exact .inr (List.mem_cons_of_mem _ hc)
        · rename_i hv
          rcases List.mem_cons.1 hc with h | h
          · exact .inl ⟨by rw [h, heq], hv⟩
          · exact .inr (List.mem_cons_of_mem _ h)
      · rcases List.mem_cons.1 hc with h | h
        · exact .inr (by simp [h])
        · rcases ih h with h | h
          · exact .inl h
          · exact .inr (List.mem_cons_of_mem _ h)

/-- A write keeps the canonical form. -/
theorem wf_write (m : Memory) (a : Nat) (v : Word) (hm : m.wf) (ha : a < 67108864) : (m.write a v).wf := by
  refine ⟨?_, fun c hc => ?_⟩
  · have hp := hm.1
    clear hm
    induction m with
    | nil => by_cases hv : v = Memory.unlisted <;> simp [Memory.write, hv]
    | cons d rest ih =>
      obtain ⟨hd, hrest⟩ := List.pairwise_cons.1 hp
      simp only [Memory.write]
      split
      · rename_i hlt
        split
        · exact hp
        · exact List.pairwise_cons.2 ⟨fun c hc => by
            rcases List.mem_cons.1 hc with h | h
            · rw [h]; exact hlt
            · exact Nat.lt_trans hlt (hd c h), hp⟩
      · split
        · split
          · exact hrest
          · exact List.pairwise_cons.2 ⟨hd, hrest⟩
        · refine List.pairwise_cons.2 ⟨fun c hc => ?_, ih hrest⟩
          rcases mem_write rest a v c hc with h | h
          · rw [h.1]; show d.1 < a; omega
          · exact hd c h
  · rcases mem_write m a v c hc with h | h
    · rw [h.1]; exact ⟨h.2, ha⟩
    · exact hm.2 c h

/-- The memory at reset is canonical. -/
theorem wf_reset : State.reset.mem.wf := by decide

theorem wf_memWrite (s : State) (a : Addr) (v : Word) (h : s.mem.wf) : (s.memWrite a v).mem.wf :=
  wf_write _ _ _ h (by have := a.isLt; omega)

/-- A word written and then read at the port. -/
theorem memRead_memWrite (s : State) (a b : Addr) (v : Word) (h : s.mem.wf) :
    (s.memWrite a v).memRead b = if b = a then v else s.memRead b := by
  by_cases hb : b = a
  · subst hb; simp [State.memRead, read_write_self _ _ _ h.1]
  · simp only [State.memRead, memWrite_mem, if_neg hb]
    exact read_write_ne _ _ _ _ fun e => hb (BitVec.eq_of_toNat_eq e)

/-- What an own write leaves in memory once the port is free. -/
theorem memRead_ownMemory {s : State} {x : OwnAccess} {v : Word} (hw : s.mem.wf) (hx : x.data = some v) (b : Addr) :
    (freePort (ownMemory x s)).memRead b = if b = planAddr s.path.straps x.offset then v else s.memRead b := by
  unfold ownMemory
  rw [hx]
  exact memRead_memWrite s _ b v hw

end Sys2Proof.Machine
end

