-- ==== Sys2Proof/Laws/Plans.lean ====
section
/-!
SUPPORT. What a pass of PL's checks says of a plan.
-/
namespace Sys2Proof.Machine

/-- Checks without a failure all pass. -/
theorem firstFailure_none (l : List (Nat × Bool)) (h : firstFailure l = none) : ∀ c ∈ l, c.2 = true := by
  unfold firstFailure at h
  rw [Option.map_eq_none_iff, List.find?_eq_none] at h
  intro c hc
  simpa using h c hc

theorem firstOf_none (f : Nat → Option Nat) (n : Nat) (h : firstOf f n = none) : ∀ i, i < n → f i = none := by
  intro i hi
  unfold firstOf at h
  rw [List.findSome?_eq_none_iff] at h
  exact h i (by simpa using hi)

/-- What a plan without a field failure satisfies (R104 to R107). -/
structure FieldsPass (p : Plan) : Prop where
  header : ∀ c ∈ headerChecks p, c.2 = true
  lines : ∀ i, i < p.lineCount → ∀ c ∈ lineChecks p i, c.2 = true
  areas : ∀ a, a < p.areaCount → areaFailure p a = none
  zones : ∀ z, z < p.zoneCount → zoneFailure p z = none

/-- A plan without a field failure passes every field check. -/
theorem fieldsPass_of (p : Plan) (h : fieldFailure p = none) : FieldsPass p := by
  unfold fieldFailure at h
  split at h
  · simp at h
  · rename_i h1
    split at h
    · simp at h
    · rename_i h2
      split at h
      · simp at h
      · rename_i h3
        exact ⟨firstFailure_none _ h1, fun i hi => firstFailure_none _ (firstOf_none _ _ h2 i hi), firstOf_none _ _ h3, firstOf_none _ _ h⟩

/-- Regions without an overlap: none meets one placed before. -/
theorem firstOverlap_none (placed l : List PlacedRegion) (h : firstOverlap placed l = none) :
    (∀ r ∈ l, ∀ q ∈ placed, r.overlaps q = false) ∧ l.Pairwise (fun r q => q.overlaps r = false) := by
  induction l generalizing placed with
  | nil => simp
  | cons r rest ih =>
    unfold firstOverlap at h
    split at h
    · simp at h
    · rename_i hr
      obtain ⟨h1, h2⟩ := ih _ h
      have hr' : ∀ q ∈ placed, r.overlaps q = false := by simpa using hr
      refine ⟨?_, ?_⟩
      · intro x hx q hq
        rcases List.mem_cons.1 hx with rfl | hx
        · exact hr' q hq
        · exact h1 x hx q (by simp [hq])
      · refine List.pairwise_cons.2 ⟨fun q hq => h1 q hq r (by simp), h2⟩

/-! ### What a pass of the checks says (R113) -/

theorem fieldFailure_of_pass {straps : BitVec 6} {live : Option Plan} {p : Plan}
    (h : planResult straps live p = .pass) : fieldFailure p = none := by
  unfold planResult at h
  split at h
  · simp at h
  · assumption

theorem regionFailure_of_pass {straps : BitVec 6} {live : Option Plan} {p : Plan}
    (h : planResult straps live p = .pass) : regionFailure straps p = none := by
  have hf := fieldFailure_of_pass h
  unfold planResult at h
  rw [hf] at h
  dsimp only at h
  split at h
  · simp at h
  · assumption

/-- A plan that shares a live plan's layout passes on its own. -/
theorem pass_alone {straps : BitVec 6} {live : Option Plan} {p : Plan}
    (h : planResult straps live p = .pass) : planResult straps none p = .pass := by
  unfold planResult
  rw [fieldFailure_of_pass h, regionFailure_of_pass h]
  rfl

/-- R109: a plan that passes beside a live plan has its layout words. -/
theorem layout_of_pass {straps : BitVec 6} {live p : Plan} (h : planResult straps (some live) p = .pass) :
    ∀ o ∈ p.layoutOffsets, p.word o = live.word o := by
  have hf := fieldFailure_of_pass h
  have hr := regionFailure_of_pass h
  unfold planResult at h
  rw [hf, hr] at h
  dsimp only [Option.bind_some] at h
  split at h
  · simp at h
  · rename_i hn
    unfold layoutFailure at hn
    rw [List.find?_eq_none] at hn
    intro o ho
    simpa using hn o ho

theorem counts_of_pass {straps : BitVec 6} {live : Option Plan} {p : Plan} (h : planResult straps live p = .pass) :
    p.lineCount ≤ 24 ∧ p.areaCount ≤ 8 ∧ p.zoneCount ≤ 48 := by
  have F := fieldsPass_of p (fieldFailure_of_pass h)
  have h1 := F.header (1026, decide (1 ≤ p.lineCount ∧ p.lineCount ≤ 24)) (by simp [headerChecks])
  have h2 := F.header (1027, decide (1 ≤ p.areaCount ∧ p.areaCount ≤ 8)) (by simp [headerChecks])
  have h3 := F.header (1028, decide (1 ≤ p.zoneCount ∧ p.zoneCount ≤ 48)) (by simp [headerChecks])
  exact ⟨(of_decide_eq_true h1).2, (of_decide_eq_true h2).2, (of_decide_eq_true h3).2⟩

/-- R106: what the area checks say of an area in use. -/
theorem area_of_pass {straps : BitVec 6} {live : Option Plan} {p : Plan} (h : planResult straps live p = .pass)
    {a : Nat} (ha : a < p.areaCount) :
    p.candCount a ≤ 8 ∧ 1 ≤ p.glideFrames a ∧
      (∀ i, i < p.candCount a → p.candLine a i < p.lineCount ∧ p.lineRole (p.candLine a i) = 1) ∧
      (∀ i k, i < p.candCount a → k < i → p.candLine a k ≠ p.candLine a i) := by
  have hA := (fieldsPass_of p (fieldFailure_of_pass h)).areas a ha
  unfold areaFailure at hA
  split at hA
  · rename_i hc
    have hA := firstFailure_none _ hA
    have h13 := hA (areaOff a 13, shiftAndGlideOk p a) (by simp [areaFieldChecks])
    simp [shiftAndGlideOk] at h13
    refine ⟨hc, h13.2.2.1, fun i hi => ?_, fun i k hi hk => ?_⟩
    all_goals
      have := hA (candidateCheck p a i) (by simp [areaFieldChecks]; left; exact ⟨i, hi, rfl⟩)
      simp [candidateCheck] at this
    · exact this.1
    · exact this.2 k hk
  · simp at hA

/-- R107: what the zone checks say of a zone in use. -/
theorem zone_of_pass {straps : BitVec 6} {live : Option Plan} {p : Plan} (h : planResult straps live p = .pass)
    {z : Nat} (hz : z < p.zoneCount) :
    p.programLine z < p.lineCount ∧ p.zoneArea z < p.areaCount ∧ p.restDelay z ≤ p.delayBound z ∧
      ∀ i, i < p.candCount (p.zoneArea z) → p.rowEntry z i ≤ p.delayBound z := by
  have hZ := (fieldsPass_of p (fieldFailure_of_pass h)).zones z hz
  unfold zoneFailure at hZ
  split at hZ
  · simp at hZ
  · rename_i h1
    split at hZ
    · simp at hZ
    · rename_i h2
      have hZ := firstFailure_none _ hZ
      have hd := hZ (zoneOff z 3, decide (p.restDelay z ≤ p.delayBound z)) (by simp [zoneFieldChecks])
      refine ⟨(not_not.1 h1).1, not_not.1 h2, of_decide_eq_true hd, fun i hi => ?_⟩
      have := hZ (zoneOff z (4 + i), decide (p.rowEntry z i ≤ p.delayBound z))
        (by unfold zoneFieldChecks; exact List.mem_append_right _ (List.mem_map.2 ⟨i, by simpa using hi, rfl⟩))
      exact of_decide_eq_true this

end Sys2Proof.Machine
end

