-- ==== Sys2Proof/Laws/Stable.lean ====
section
/-!
SUPPORT. What no command touches but a reset and its end: the queue, the straps, the reset itself, the count of free
values and the cause of the last reset.
-/
namespace Sys2Proof.Machine

/-- Every part the taking of a word or an event may touch: memory, the port and what waits are not among them. -/
def takeParts : List Part :=
  [.inHand, .ownPL, .ownCU, .ownRW, .ownSS, .lastDone,
    .lines, .areas, .taps, .guards, .yieldLevel,
    .loadState, .cursor, .readInFlight, .staleRead, .torn, .sum, .loadWords, .standby, .live, .outcome,
    .device, .slot, .shadow, .latched, .lastTag, .lastStamp, .watch,
    .head, .tail, .queue, .dropped, .total, .dirty, .work,
    .words, .storeCond, .programming, .permit, .imageCursor, .checkPending]

/-- Every part the taking of words and events, and their waiting, may touch. -/
def wordParts : List Part := [.waiting, .held] ++ takeParts

/-- Every part a command other than a reset or its end may touch. -/
def runParts : List Part := [.mem, .port, .count, .pointer] ++ wordParts

theorem KeepsAllBut.path {s t : State} {p : MemPath} (h : KeepsAllBut takeParts s t)
    (h1 : p.straps = t.path.straps) (h2 : p.resetHeld = t.path.resetHeld) (h3 : p.port = t.path.port)
    (h4 : p.count = t.path.count) (h5 : p.pointer = t.path.pointer) (h6 : p.waiting = t.path.waiting) (h7 : p.held = t.path.held) :
    KeepsAllBut takeParts s (t.setPath p) :=
  h.trans fun q hq => by
    cases q <;> first | rfl | exact h1 | exact h2 | exact h3 | exact h4 | exact h5 | exact h6 | exact h7 | exact absurd (by decide) hq

theorem KeepsAllBut.anyWaiting {s t : State} {p : MemPath} (h : KeepsAllBut wordParts s t)
    (h1 : p.straps = t.path.straps) (h2 : p.resetHeld = t.path.resetHeld) (h3 : p.port = t.path.port)
    (h4 : p.count = t.path.count) (h5 : p.pointer = t.path.pointer) :
    KeepsAllBut wordParts s (t.setPath p) :=
  h.trans fun q hq => by
    cases q <;> first | rfl | exact h1 | exact h2 | exact h3 | exact h4 | exact h5 | exact absurd (by decide) hq

theorem KeepsAllBut.anyPath {s t : State} {p : MemPath} (h : KeepsAllBut runParts s t)
    (h1 : p.straps = t.path.straps) (h2 : p.resetHeld = t.path.resetHeld) :
    KeepsAllBut runParts s (t.setPath p) :=
  h.trans fun q hq => by cases q <;> first | rfl | exact h1 | exact h2 | exact absurd (by decide) hq

theorem KeepsAllBut.run {s t u : State} (h : KeepsAllBut runParts s t) (k : KeepsAllBut wordParts t u) :
    KeepsAllBut runParts s u := h.trans (k.mono fun q hq => by simp [runParts, hq])

theorem KeepsAllBut.takes {s t u : State} (h : KeepsAllBut wordParts s t) (k : KeepsAllBut takeParts t u) :
    KeepsAllBut wordParts s u := h.trans (k.mono fun q hq => by simp [wordParts, hq])

theorem KeepsAllBut.anyLoader {s t : State} {l : Loader} (h : KeepsAllBut takeParts s t) :
    KeepsAllBut takeParts s (t.setLoader l) :=
  h.trans fun q hq => by cases q <;> first | rfl | exact absurd (by decide) hq

theorem KeepsAllBut.anyCommand {s t : State} {c : CommandUnit} (h : KeepsAllBut takeParts s t)
    (hc : c.cause = t.command.cause) : KeepsAllBut takeParts s (t.setCommand c) :=
  h.trans fun q hq => by cases q <;> first | rfl | exact hc | exact absurd (by decide) hq

theorem KeepsAllBut.anyWriter {s t : State} {w : ReportWriter} (h : KeepsAllBut takeParts s t) :
    KeepsAllBut takeParts s (t.setWriter w) :=
  h.trans fun q hq => by cases q <;> first | rfl | exact absurd (by decide) hq

theorem KeepsAllBut.anyStore {s t : State} {x : SafetyStore} (h : KeepsAllBut takeParts s t) :
    KeepsAllBut takeParts s (t.setStore x) :=
  h.trans fun q hq => by cases q <;> first | rfl | exact absurd (by decide) hq

variable {s t : State}

/-! ### The blocks' work -/

theorem KeepsAllBut.plIssueRead (h : KeepsAllBut takeParts s t) : KeepsAllBut takeParts s (plIssueRead t) :=
  h.anyLoader.issuePL

theorem KeepsAllBut.plLoad (h : KeepsAllBut takeParts s t) : KeepsAllBut takeParts s (plLoad t) := by
  unfold Machine.plLoad
  dsimp only
  split
  · exact h.anyLoader.statusChange
  · exact h.anyLoader.plIssueRead.statusChange

theorem KeepsAllBut.plReadDone (v : Word) (h : KeepsAllBut takeParts s t) : KeepsAllBut takeParts s (plReadDone v t) := by
  unfold Machine.plReadDone
  dsimp only
  split
  · split
    · exact h.anyLoader.plIssueRead
    · exact h.anyLoader
  · split
    · unfold plReceive
      dsimp only
      split
      · exact h.anyLoader.plIssueRead
      · exact h.anyLoader.anyLoader.statusChange
    · exact h

theorem KeepsAllBut.plPlanWrite (off : Nat) (h : KeepsAllBut takeParts s t) :
    KeepsAllBut takeParts s (plPlanWrite off t) := by
  unfold Machine.plPlanWrite
  split
  · exact h.anyLoader
  · exact h

theorem KeepsAllBut.plReject (why : LoadOutcome) (a b : Word) (h : KeepsAllBut takeParts s t) :
    KeepsAllBut takeParts s (plReject why a b t) := h.anyLoader.request.statusChange

theorem KeepsAllBut.plInstall (p : Plan) (h : KeepsAllBut takeParts s t) : KeepsAllBut takeParts s (plInstall p t) := by
  have h1 : KeepsAllBut takeParts s (plInstalled p t) := h.trans fun q hq => by
    cases q <;> first | exact absurd (by decide) hq | rfl
  exact h1.request.statusChanges.statusChanges

theorem KeepsAllBut.plEndOfChecks (h : KeepsAllBut takeParts s t) : KeepsAllBut takeParts s (plEndOfChecks t) := by
  unfold Machine.plEndOfChecks
  split
  · dsimp only
    split
    · exact h.plReject _ _ _
    · exact h.plReject _ _ _
    · exact h.plReject _ _ _
    · exact h.plReject _ _ _
    · unfold plPass
      split
      · exact h.plInstall _
      · exact h.anyLoader.request.statusChange
  · exact h

theorem KeepsAllBut.plSwap (old new : Plan) (h : KeepsAllBut takeParts s t) :
    KeepsAllBut takeParts s (plSwap old new t) := by
  have h1 : KeepsAllBut takeParts s (Machine.teSwap new (Machine.seSwap old new (plSwapPlans new t))) :=
    (h.anyLoader.seSwap).teSwap
  refine KeepsAllBut.statusChange (KeepsAllBut.request (.forEach _ (fun z u hu => ?_) h1))
  unfold swapNotice
  split
  · exact hu
  · exact hu.teNotice

theorem KeepsAllBut.plMark (p : Plan) (h : KeepsAllBut takeParts s t) : KeepsAllBut takeParts s (plMark p t) := by
  unfold Machine.plMark
  split
  · split
    · exact h
    · exact h.plSwap _ _
  · exact h

theorem KeepsAllBut.plAbandon (h : KeepsAllBut takeParts s t) : KeepsAllBut takeParts s (plAbandon t) := by
  unfold Machine.plAbandon
  split
  · exact h
  · exact h.anyLoader.request

theorem KeepsAllBut.plDrop (h : KeepsAllBut takeParts s t) : KeepsAllBut takeParts s (plDrop t) := by
  have h1 : KeepsAllBut takeParts s (droppedState (Machine.plAbandon t)) := h.plAbandon.trans fun q hq => by
    cases q <;> first | rfl | exact absurd (by decide) hq
  exact h1.statusChanges.statusChanges

theorem KeepsAllBut.cuEndStartUp (h : KeepsAllBut takeParts s t) : KeepsAllBut takeParts s (cuEndStartUp t) := by
  unfold Machine.cuEndStartUp
  split
  · have h1 : KeepsAllBut takeParts s (t.setDevice .cold) := h.anyCommand rfl
    exact h1.request.statusChange
  · exact h

theorem KeepsAllBut.cuFrameMark (m : Word) (h : KeepsAllBut takeParts s t) :
    KeepsAllBut takeParts s (cuFrameMark m t) := by
  have h1 : KeepsAllBut takeParts s (t.setCommand { t.command with lastStamp := m }) := h.anyCommand rfl
  unfold Machine.cuFrameMark
  dsimp only
  split
  · exact h1
  · exact KeepsAllBut.plMark _ (KeepsAllBut.zcMark (KeepsAllBut.ltMark h1.teMark))

theorem KeepsAllBut.execute (c : Command) (o : Vector Word 4) (h : KeepsAllBut takeParts s t) :
    KeepsAllBut takeParts s (execute c o t) := by
  have hd : ∀ d, KeepsAllBut takeParts s (t.setDevice d) := fun d => h.anyCommand rfl
  unfold Machine.execute
  split
  · exact h.plLoad
  · exact h.awCommand
  · exact h.plDrop
  · exact (hd _).statusChange.seArm
  · exact (KeepsAllBut.seDisarm (hd _).statusChange).awDisarm
  · exact h.sePin
  · exact h.seFree
  · unfold cuMute
    split
    · exact .forEach _ (fun _ _ hu => hu.zcMute) h
    · exact h.zcMute
  · exact h.zcProof
  · unfold cuClear
    split
    · exact .forEach _ (fun _ _ hu => hu.ltClear) h
    · exact h.ltClear
  · exact KeepsAllBut.setGuard (KeepsAllBut.setTap h)
  all_goals exact h

theorem KeepsAllBut.cuPost (v : Word) (h : KeepsAllBut takeParts s t) : KeepsAllBut takeParts s (cuPost v t) := by
  unfold Machine.cuPost
  split
  · have h1 : KeepsAllBut takeParts s (t.setCommand { t.command with
        slot := .answering, latched := t.command.shadow, lastTag := some (postTag v) }) := h.anyCommand rfl
    unfold cuTakePost
    dsimp only
    generalize t.setCommand { t.command with
      slot := .answering, latched := t.command.shadow, lastTag := some (postTag v) } = u at h1
    have h2 : ∀ x o, KeepsAllBut takeParts s (postEffects (postCode v) x o u).1 := by
      intro x o
      unfold postEffects
      split <;> first | exact h1.execute _ _ | exact h1
    exact (h2 _ _).issueCU
  · exact h.request

theorem KeepsAllBut.ssIssueImage (h : KeepsAllBut takeParts s t) : KeepsAllBut takeParts s (ssIssueImage t) := by
  unfold Machine.ssIssueImage
  split
  · exact h.issueSS
  · exact h

theorem KeepsAllBut.takeEvent (e : SlowEvent) (h : KeepsAllBut takeParts s t) :
    KeepsAllBut takeParts s (takeEvent e t) := by
  cases e
  · show KeepsAllBut takeParts s (ssStartUpCheck t)
    unfold ssStartUpCheck
    split
    · exact h.anyStore.statusChange.ssIssueImage
    · exact h
  · exact h.plEndOfChecks
  · show KeepsAllBut takeParts s (ssEntryCompletion t)
    unfold ssEntryCompletion
    split
    · exact h
    · split
      · exact h.trans ((keeps_ssEntryProgrammed t _ _).mono (by decide))
      · exact h
  · show KeepsAllBut takeParts s (ssChecksumCompletion t)
    unfold ssChecksumCompletion
    split
    · exact h
    · split
      · exact h
      · exact h.trans ((keeps_ssChecksumProgrammed t _ _).mono (by decide))
  · exact h.zcEdge
  · exact h.plReadDone _
  · rename_i x
    cases x
    · exact h
    · exact h
    · exact h.anyCommand rfl
    · exact h
    · exact h.anyWriter.trans ((keeps_statusFirst _).mono (by decide))
    · exact h.anyWriter.chooseWork.cuEndStartUp
    · exact h.anyStore.ssIssueImage.cuEndStartUp

/-! ### Words -/

theorem keeps_planAreaWrite (off : Nat) (v : Word) (w : UpWord) (h : KeepsAllBut takeParts s t) :
    KeepsAllBut takeParts s (planAreaWrite off v w t).1 := by
  unfold planAreaWrite
  split
  · exact h.foreignWrite
  · split
    · unfold ssImageWord
      split
      · exact h.trans ((keeps_ssProgramRequest t _ _ _).mono (by decide))
      all_goals exact h.foreignWrite
    · split
      · unfold snoop
        split
        · exact h.cuPost v
        · split
          · exact h.anyCommand rfl
          · split
            · exact h.cuFrameMark v
            · split
              · unfold rwTail
                dsimp only
                split
                · exact h.anyWriter
                · exact h
              · split
                · exact h.trans ((keeps_ssPermitRequest t v).mono (by decide))
                · split
                  · exact h.plPlanWrite off
                  · exact h
      · exact h

theorem keeps_teRead (p : Plan) (z : Fin 48) (j : Nat) (h : KeepsAllBut takeParts s t) :
    KeepsAllBut takeParts s (teRead p z j t).1 := by
  unfold teRead
  dsimp only
  split
  · exact h
  · split
    · exact h
    · exact h
    · exact h
    · split
      · unfold teSteadyRead
        dsimp only
        split
        · exact h
        · dsimp only
          exact h.teBoundFailure
        · dsimp only
          exact h.teBoundFailure
      · unfold teGlidingRead
        dsimp only
        split
        · exact h
        · exact h.teBoundFailure.teBoundFailure

theorem keeps_ownerTreatment (w : UpWord) (h : KeepsAllBut takeParts s t) :
    KeepsAllBut takeParts s (ownerTreatment w t).1 := by
  unfold ownerTreatment
  split
  · unfold planAreaWord
    split
    · exact h
    · exact keeps_planAreaWrite _ _ _ h
  · unfold withPlan
    split
    · exact h
    · unfold teWord
      split
      · exact keeps_teRead _ _ _ h
      · exact h.foreignWrite
  · unfold withPlan
    split
    · exact h
    · unfold zcWord
      split
      · exact h
      · exact h
      · exact h
      · exact h
      · exact h.setGuard
      all_goals exact h.foreignWrite
  · unfold withPlan
    split
    · exact h
    · unfold ltWord
      split
      · exact h
      · dsimp only
        split
        · exact h.ltWriterWrite
        · exact h.ltForeignWrite
  · exact h

theorem KeepsAllBut.finishWord (w : UpWord) (l : List (Fin 4)) (x : Option Word) (h : KeepsAllBut takeParts s t) :
    KeepsAllBut takeParts s (finishWord w l x t) :=
  .forEach _ (fun _ _ hu => hu.awData) (h.path rfl rfl rfl rfl rfl rfl rfl)

theorem KeepsAllBut.startTreatment (w : UpWord) (l : List (Fin 4)) (x : Treatment) (h : KeepsAllBut takeParts s t) :
    KeepsAllBut takeParts s (startTreatment w l x t) := by
  cases x
  · exact h.path rfl rfl rfl rfl rfl rfl rfl
  · exact h.finishWord w l _

theorem KeepsAllBut.takeWord (w : UpWord) (h : KeepsAllBut takeParts s t) : KeepsAllBut takeParts s (takeWord w t) := by
  unfold Machine.takeWord
  split
  · exact h.startTreatment w _ _
  · dsimp only
    split
    · exact h.awLook.finishWord w _ _
    · exact (keeps_ownerTreatment w h.awLook).startTreatment w _ _

/-! ### What waits for the end of a word (R88) -/

theorem KeepsAllBut.presentWord (w : UpWord) (h : KeepsAllBut wordParts s t) :
    KeepsAllBut wordParts s (presentWord w t) := by
  unfold Machine.presentWord
  split
  · exact h
  · split
    · exact h.anyWaiting rfl rfl rfl rfl rfl
    · exact h.takes ((KeepsAllBut.refl t).takeWord w)

theorem KeepsAllBut.deliver (e : SlowEvent) (h : KeepsAllBut wordParts s t) :
    KeepsAllBut wordParts s (deliver e t) := by
  unfold Machine.deliver
  split
  · exact h.anyWaiting rfl rfl rfl rfl rfl
  · exact h.takes ((KeepsAllBut.refl t).takeEvent e)

theorem KeepsAllBut.arrive (e : SlowEvent) (h : KeepsAllBut wordParts s t) : KeepsAllBut wordParts s (arrive e t) := by
  unfold Machine.arrive
  split
  · exact h
  · exact h.deliver e

theorem KeepsAllBut.takeHeld (l : List SlowEvent) (h : KeepsAllBut wordParts s t) :
    KeepsAllBut wordParts s (takeHeld l t) := by
  induction l generalizing t with
  | nil => exact h
  | cons e l ih =>
    have h1 : KeepsAllBut wordParts s (t.setPath { t.path with held := l }) := h.anyWaiting rfl rfl rfl rfl rfl
    exact ih (h1.takes ((KeepsAllBut.refl _).takeEvent e))

theorem KeepsAllBut.takeWaiting (l : List UpWord) (h : KeepsAllBut wordParts s t) :
    KeepsAllBut wordParts s (takeWaiting l t) := by
  induction l generalizing t with
  | nil => exact h.anyWaiting rfl rfl rfl rfl rfl
  | cons w l ih =>
    have h1 : KeepsAllBut wordParts s (t.setPath { t.path with waiting := l }) := h.anyWaiting rfl rfl rfl rfl rfl
    have h2 := h1.takes ((KeepsAllBut.refl _).takeWord w)
    unfold Machine.takeWaiting
    dsimp only
    split
    · exact h2
    · exact ih h2

theorem KeepsAllBut.afterWord (h : KeepsAllBut wordParts s t) : KeepsAllBut wordParts s (afterWord t) :=
  KeepsAllBut.takeWaiting _ (h.takeHeld _)

/-- Taking an event leaves what waits as it is. -/
theorem takeEvent_waits (e : SlowEvent) (s : State) :
    (takeEvent e s).path.held = s.path.held ∧ (takeEvent e s).path.waiting = s.path.waiting :=
  have h := (KeepsAllBut.refl (c := takeParts) s).takeEvent e
  ⟨h .held (by decide), h .waiting (by decide)⟩

/-- Taking a word leaves what waits as it is. -/
theorem takeWord_waits (w : UpWord) (s : State) :
    (takeWord w s).path.held = s.path.held ∧ (takeWord w s).path.waiting = s.path.waiting :=
  have h := (KeepsAllBut.refl (c := takeParts) s).takeWord w
  ⟨h .held (by decide), h .waiting (by decide)⟩

/-- The first event that waits is taken first. -/
theorem afterWord_event {s : State} {e : SlowEvent} {rest : List SlowEvent} (h : s.path.held = e :: rest) :
    afterWord s = afterWord (takeEvent e (s.setPath { s.path with held := rest })) := by
  have h1 : (takeEvent e (s.setPath { s.path with held := rest })).path.held = rest := (takeEvent_waits _ _).1
  conv_lhs => unfold afterWord; rw [h]
  conv_rhs => unfold afterWord; rw [h1]
  rfl

/-- With no event waiting, the first word that waits is taken, and what follows it waits for its end. -/
theorem afterWord_word {s : State} {w : UpWord} {rest : List UpWord} (hh : s.path.held = [])
    (h : s.path.waiting = w :: rest) :
    let taken := takeWord w (s.setPath { s.path with waiting := rest })
    afterWord s = if taken.path.inHand = none then afterWord taken else taken := by
  intro taken
  have h1 : taken.path.held = [] := (takeWord_waits _ _).1.trans hh
  have h2 : taken.path.waiting = rest := (takeWord_waits _ _).2
  conv_lhs => unfold afterWord; rw [hh]; dsimp only [takeHeld]; rw [h]; dsimp only [Machine.takeWaiting]
  conv_rhs => unfold afterWord; rw [h1]; dsimp only [takeHeld]; rw [h2]
  by_cases hi : taken.path.inHand = none
  · simp [taken, hi]
  · simp [taken, hi, Option.isSome_iff_ne_none]

/-! ### The port -/

theorem KeepsAllBut.portGrant (h : KeepsAllBut runParts s t) : KeepsAllBut runParts s (portGrant t) := by
  unfold Machine.portGrant
  split
  · exact h
  · split
    · exact h
    · unfold grantUpstream
      split
      · exact h.anyPath rfl rfl
      · split
        · exact h.anyPath rfl rfl
        · exact (h.anyPath rfl rfl).anyPath rfl rfl
    · unfold grantOwn
      split
      · exact h.anyPath rfl rfl
      · rename_i n _ _ c _
        unfold serve
        split
        · exact h.anyPath rfl rfl
        · have hp : KeepsAllBut runParts s (t.setPath { t.path with count := n }) := h.anyPath rfl rfl
          dsimp only
          split
          · exact (hp.anyPath (by simp) (by simp)).anyPath rfl rfl
          · unfold ownMemory
            split
            · exact hp.anyPath (by simp) (by simp)
            · exact (hp.anyPath (by simp) (by simp)).memWrite

theorem KeepsAllBut.upstreamComplete (h : KeepsAllBut runParts s t) :
    KeepsAllBut runParts s (upstreamComplete t) := by
  unfold Machine.upstreamComplete
  split
  · rename_i a _
    have h1 : KeepsAllBut runParts s (upstreamMemory a (freePort t)) := by
      cases a
      · exact h.anyPath rfl rfl
      · have h0 : KeepsAllBut runParts s (freePort t) := h.anyPath rfl rfl
        exact h0.memWrite
    unfold upstreamDone
    dsimp only
    split
    · exact h1
    · split
      · unfold completeInHand
        have h2 (z : Option (Fin 48)) (u : State) : KeepsAllBut takeParts u (countSaturation z u) := by
          cases z
          · exact .refl _
          · exact (KeepsAllBut.refl _).teSaturate
        exact h1.run (((KeepsAllBut.refl _).takes ((h2 _ _).finishWord _ _ _)).afterWord)
      · exact h1.anyPath rfl rfl
  · exact h
  · exact h

theorem KeepsAllBut.ownComplete (row : OwnCompletion) (h : KeepsAllBut runParts s t) :
    KeepsAllBut runParts s (ownComplete row t) := by
  unfold Machine.ownComplete
  split
  · rename_i x _
    split
    · have h1 : KeepsAllBut runParts s (freePort (ownMemory x t)) := by
        unfold ownMemory
        split
        · exact h.anyPath rfl rfl
        · exact (KeepsAllBut.memWrite h).anyPath rfl rfl
      exact h1.run ((KeepsAllBut.refl _).deliver _)
    · exact h
  · exact h
  · exact h

/-! ### Every command -/

/-- A command that is no reset and no reset's end. -/
def isRunning : Instr → Bool
  | .powerOnReset => false
  | .resetPinAsserted => false
  | .resetEnd _ _ => false
  | _ => true

/-- Every command answers a next state; one that is no reset and no reset's end touches no part beyond `runParts`. -/
theorem exec_running (c : Instr) (s : State) (hc : isRunning c = true) :
    ∃ t, exec c s = .next t ∧ KeepsAllBut runParts s t := by
  have h := KeepsAllBut.refl (c := runParts) s
  cases c
  case powerOnReset => exact absurd hc (by decide)
  case resetPinAsserted => exact absurd hc (by decide)
  case resetEnd => exact absurd hc (by simp [isRunning])
  all_goals first
    | exact ⟨_, rfl, h.run ((KeepsAllBut.refl s).presentWord _)⟩
    | exact ⟨_, rfl, h.run ((KeepsAllBut.refl s).arrive _)⟩
    | exact ⟨_, rfl, h.portGrant⟩
    | exact ⟨_, rfl, h.upstreamComplete⟩
    | exact ⟨_, rfl, h.ownComplete _⟩

end Sys2Proof.Machine
end

