-- ==== Sys2Proof/Tests/Slice0.lean ====
section
/-!
SUPPORT. Tests: ill-formed terms refused, the spec's worked examples, and for every statement of the certificates a
concrete state and operands that meet its hypotheses, clause by clause at the values where clauses meet.
-/
namespace Sys2Proof.Tests
open Sys2Proof Sys2Proof.Machine

-- one theorem after another: side by side, their kernel evaluations take more threads than the memory limit allows
set_option Elab.async false

/-! ### WellFormed -/

theorem test_illformed_zone_foreign_write : (Instr.zoneForeignWrite .core 0 0).wellFormed = false := by decide
theorem test_illformed_image_foreign_write : (Instr.imageForeignWrite .core 192 0).wellFormed = false := by decide
theorem test_illformed_protected_write :
    ∀ off ∈ [0, 2, 5, 8, 15, 118, 255, 512], (Instr.protectedWrite .core (BitVec.ofNat 12 off) 0).wellFormed = false := by decide
theorem test_illformed_plan_word_write :
    ∀ off ∈ [1023, 1863], (Instr.planWordWrite (BitVec.ofNat 12 off) 0).wellFormed = false := by decide
theorem test_illformed_unknown_command :
    ∀ code ∈ [1, 11], (Instr.unknownCommand (BitVec.ofNat 8 code) 0 0).wellFormed = false := by decide
theorem test_illformed_transaction :
    (Transaction.mk .core 0 (.read 0)).wellFormed = false ∧ (Transaction.mk .core 0 (.read 17)).wellFormed = false ∧
      (Transaction.mk .core 0 (.write [])).wellFormed = false := by decide

/-! ### States -/

/-- The nonzero words of a small plan, offset and value: F 16; lines 0 and 1 candidates written by IN-DMA, line 2 a
programme line written by CORE; area 0 with both candidates and the figures of example 2.9; zone 0 on line 2. -/
def planTable : List (Nat × Nat) :=
  [(1025, 16), (1026, 3), (1027, 1), (1028, 1), (1029, 8192), (1030, 8704)] ++
  [(1031, 16384), (1032, 1024), (1033, 1), (1034, 1), (1035, 100), (1036, 3)] ++
  [(1037, 17408), (1038, 1024), (1039, 1), (1040, 1), (1042, 1)] ++
  [(1043, 18432), (1044, 1024), (1046, 2), (1048, 1)] ++
  [(1175, 2), (1177, 1), (1184, 200000), (1185, 100000), (1186, 4), (1187, 6), (1188, 2050)] ++
  [(1287, 2), (1289, 1280), (1290, 4), (1291, 100), (1292, 180)]

/-- The 839 words of a table. -/
def planOf (table : List (Nat × Nat)) : Plan :=
  (List.range' 1024 839).map fun o => word (((table.find? (·.1 = o)).map (·.2)).getD 0)

/-- The small plan. -/
def plan : Plan := planOf planTable

/-- The same layout with another row entry and trim. -/
def plan' : Plan := planOf ([(1289, 1024), (1291, 101)] ++ planTable)

/-- Out of reset and past start-up, nothing loaded. -/
def cold : State :=
  { State.reset with
    path := { State.reset.path with resetHeld := false }
    command := { State.reset.command with device := .cold } }

/-- The small plan live. -/
def live (d : Device) : State :=
  { cold with loader := { cold.loader with live := some plan }, command := { cold.command with device := d } }

/-- A state with another word in hand, all of whose accesses are granted. -/
def busy (s : State) (h : InHand) (x : Access) : State :=
  s.setPath { s.path with inHand := some h, port := some (.upstream x) }

/-- A state with an own access at the port. -/
def own (s : State) (x : OwnAccess) : State := s.setPath { s.path with port := some (.own x) }

/-- A state whose shadow holds these operands. -/
def shadow (s : State) (o : Vector Word 4) : State := s.setCommand { s.command with shadow := o }

/-- Line 0 in a condition, 1,025 samples in. -/
def lineAt (c : Cond) (prev : Option Int) : LineRec := { LineRec.start with cond := c, head := 1025, prev := prev }

/-- The programme line RUNNING, as in example 3.13. -/
def running (head : Word) : State :=
  (live .service).setLine 2 { LineRec.start with cond := .running, head := head, anchor := 20000, anchorValid := true }

/-- Zone 0 with a glide. -/
def gliding (s : State) (g : Glide) : State := s.setTap 0 { s.tap 0 with glide := g, trim := 1280 }

/-- Area 0 with a source and levels collected for its two candidates. -/
def areaWith (e : Option (Fin 8)) (a b : Level) (x y : Nat) : AreaRec :=
  { AreaRec.fresh with
    elected := e, dwell := 4, quiet := 5
    envelope := #v[x, y, 0, 0, 0, 0, 0, 0]
    collection := #v[some a, some b, none, none, none, none, none, none] }

/-- What `exec` answers when it answers a next state. -/
def after (c : Instr) (s : State) : State :=
  match exec c s with
  | .next t => t
  | .fault _ => s
  | .refused _ => s

/-! ### The spec's examples -/

/-- 0.6, R7: 1.9's jump of 2,350,000 over a threshold of 2,000,000. -/
theorem test_jump_of_1_9 :
    jumpOf { LineRec.start with prev := some 150000 } 2000000 2500000 = some 2350000 ∧
      jumpOf { LineRec.start with prev := some 120000 } 2000000 150000 = none := by decide

/-- 2.9, stamps 700 and 701, with two of its candidates. -/
theorem test_decisions_of_2_9 :
    let r := { areaWith (some 0) ⟨.running, 100000⟩ ⟨.running, 600000⟩ 900000 50000 with dwell := 10 }
    let q := { areaWith (some 0) ⟨.running, 0⟩ ⟨.running, 650000⟩ 675000 600000 with dwell := 11 }
    ((weighed plan 0 r).level 0, (weighed plan 0 r).level 1, (weighed plan 0 r).dwell) = (675000, 600000, 11) ∧
      verdict plan 0 (weighed plan 0 r) = .keep 0 ∧
      ((weighed plan 0 q).level 0, (weighed plan 0 q).level 1, (weighed plan 0 q).dwell) = (506250, 650000, 12) ∧
      verdict plan 0 (weighed plan 0 q) = .switch (some 1) := by decide +kernel

/-- 3.13: words 4, 13 and 15 of the window, and the weight of word 0 at step 1. -/
theorem test_answers_of_3_13 :
    (blendWeight 16 2 0 4, blendWeight 16 2 0 13, blendWeight 16 2 0 15, blendWeight 16 2 1 0) = (32, 104, 120, 128) ∧
      (trimAnswer 1280 (blend 32 40000 (-20000))).toInt = 40625 ∧
      (trimAnswer 1280 (blend 104 (-3001) (-2999))).toInt = -3752 ∧
      (trimAnswer 1280 (blend 120 7000000 6900000)).toInt = 8388607 ∧
      trimSaturates 1280 (blend 120 7000000 6900000) = true := by decide +kernel

/-- 3.13: word 4 of the window waits for its two samples. -/
theorem test_window_of_3_13 :
    ((after (.tapRead .core 8196) (gliding (running 20006) (.gliding 100 180 0 2))).path.inHand.map (·.accesses)) =
      some [.read (18432 + 432), .read (18432 + 352)] := by decide +kernel

/-- 3.13: a notice and the marks that follow it. -/
theorem test_marks_of_3_13 :
    let r : TapRec := { TapRec.unused with glide := .gliding 100 180 0 2 }
    let n : TapRec := { r with pendingTarget := noticed r 240 }
    (markedTap n 5).glide = .gliding 100 180 1 2 ∧ (markedTap (markedTap n 5) 5).glide = .gliding 180 240 0 5 ∧
      (markedTap (markedTap n 5) 5).pendingTarget = none := by decide

/-- 4.11, 12.3: the two clamps of zone writes, and the faded answers, rounded toward zero. -/
theorem test_zone_words_of_4_11_and_12_3 :
    zoneClamp 4000000 (ofSample 5000000) = 4000000 ∧ zoneClamp 4000000 (ofSample (-9000000)) = -4000000 ∧
      fadedSample 7 4000000 = 3500000 ∧ fadedSample 7 (-3000001) = -2625000 ∧ fadedSample 3 (-3000001) = -1125000 := by
  decide

/-- 5.4's example: eight upstream grants, then one of the engine's. -/
theorem test_arbiter_of_chapter_5 :
    arbitrate true true 0 = some (.upstream, 1) ∧ arbitrate true true 7 = some (.upstream, 8) ∧
      arbitrate true true 8 = some (.own, 0) ∧ arbitrate false true 3 = some (.own, 0) := by decide

/-- 9.5: with occupancy 60 and three reports queued the next is refused. -/
theorem test_acceptance_of_9_5 :
    let w (n : Nat) : ReportWriter :=
      { ReportWriter.reset with head := 40, tail := 44, queue := List.replicate n ⟨.started, 0, 0, 0, 0, 0⟩ }
    (w 2).accepts = true ∧ (w 3).accepts = false := by decide

/-- R156: a request made while eight reports wait is refused: both counts rise and word 19 is marked. -/
theorem test_refused_request :
    let s := cold.setWriter { cold.writer with
      dirty := [], queue := List.replicate 8 ⟨.started, 0, 0, 0, 0, 0⟩, work := .report }
    let t := after (.protectedWrite .aux 16 5) s
    t.writer.queue = s.writer.queue ∧ t.writer.dropped = 1 ∧ t.writer.total = 1 ∧ t.writer.dirty = [19] := by
  decide +kernel

/-- 9.5: a tail update of 43 is taken, one of 45 once the tail is 43 is not. -/
theorem test_tail_of_9_5 :
    let s := cold.setWriter { cold.writer with head := 43, tail := 44 }
    (rwTail 43 s).writer.tail = 43 ∧ (rwTail 45 (rwTail 43 s)).writer.tail = 43 := by decide

/-- 8.7: a FENCE over the plan words passes R149; one that holds the post word from CORE does not. -/
theorem test_fence_of_8_7 :
    watchOperandsOk 5242880 #v[2 + 256, 5243904, 839, 2 * 2 + 16 * 9 + 4096] = true ∧
      watchOperandsOk 5242880 #v[2 + 256, 5242880, 839, 2 * 2 + 16 * 9 + 4096] = false := by decide +kernel

/-- R86: a burst's addresses run on from 67,108,863 to 0. -/
theorem test_burst_wraps :
    (burstWords ⟨.aux, 67108863, .read 2⟩).map (·.addr) = [67108863, 0] := by decide

/-- No word of the table's bits spells a command. -/
theorem test_no_word_spells_a_command : decodeTableWord 32 0 = none := rfl

/-- RESET_END, then a step on the empty queue. -/
theorem test_reset_end_then_idle :
    (after (.resetEnd 5 true) State.reset).path.straps = 5 ∧ step State.reset = .next State.reset :=
  ⟨by decide +kernel, rfl⟩

/-! ### Witnesses: lines -/

theorem test_witness_SyncOfAnIdleLine : ∀ o ∈ [0, 1023],
    (live .ready).takes ⟨.inDma, BitVec.ofNat 26 (16384 + o), .write 5⟩ ∧
      (live .ready).region (BitVec.ofNat 26 (16384 + o)) = .lineMemory 0 o ∧ plan.isWriter 0 .inDma ∧
      ((live .ready).line 0).cond = .idle ∧ plan.lineLen 0 = 1024 := by decide +kernel

/-- `loader.live` in every state of the witnesses that has the small plan. -/
theorem test_live_plan : ∀ d, (live d).loader.live = some plan := fun _ => rfl

theorem test_witness_AcceptedWriteInOrder :
    (∀ c ∈ [Cond.synced, .running, .faulted], ∀ q ∈ [none, some 100], ∀ v ∈ [200, 201],
      let s := (live .ready).setLine 0 (lineAt c q)
      s.takes ⟨.inDma, 16385, .write (word v)⟩ ∧ s.region 16385 = .lineMemory 0 1 ∧ (s.line 0).cond ≠ .idle ∧
        1 = (s.line 0).head.toNat % plan.lineLen 0) ∧
      plan.isWriter 0 .inDma ∧ plan.jumpThreshold 0 = 100 ∧ (legalSample 200 - 100).natAbs = 100 ∧
      (legalSample 201 - 100).natAbs = 101 := by decide +kernel

theorem test_witness_ResyncOutOfOrder : ∀ c ∈ [Cond.synced, .running, .faulted], ∀ b ∈ [true, false],
    let s := (live .ready).setLine 0 { lineAt c none with resyncReported := b }
    s.takes ⟨.inDma, 16391, .write 5⟩ ∧ s.region 16391 = .lineMemory 0 7 ∧ plan.isWriter 0 .inDma ∧
      (s.line 0).cond ≠ .idle ∧ 7 ≠ (s.line 0).head.toNat % plan.lineLen 0 := by decide +kernel

theorem test_witness_LineForeignWriteDropped : ∀ b ∈ [true, false],
    let s := (live .ready).setLine 0 { LineRec.start with foreignReported := b }
    s.takes ⟨.aux, 16384, .write 5⟩ ∧ s.region 16384 = .lineMemory 0 0 ∧ plan.isWriter 0 .aux = false := by
  decide +kernel

/-- Frame marks are taken from every state of the witnesses; lines 0 and 3 lie on both sides of the line count. -/
theorem test_witness_FrameMarkOnLines :
    (∀ c ∈ [Cond.idle, .synced, .running, .faulted], ∀ w ∈ [true, false], ∀ j ∈ [true, false], ∀ q ∈ [1, 2],
      let s := (live .ready).setLine 0 { lineAt c none with writeSeen := w, jumpSeen := j, quiet := q }
      s.takes (s.coreWord 8 7) ∧ (s.line 0).cond = c ∧ (s.line 0).quiet = q) ∧
      Instr.lineRecovery 7 ∈ frameMarkRows 7 ∧ plan.recoverFrames 0 = 3 ∧ plan.lineCount = 3 := by decide +kernel

/-! ### Witnesses: areas -/

theorem test_witness_ElectionDecision :
    (let r := areaWith (some 0) ⟨.running, 0⟩ ⟨.synced, 0⟩ 200000 300000;
      (0 : Fin 8) ∈ eligibles plan 0 r ∧ (eligibles plan 0 r).filter (· ≠ 0) = [1] ∧
        (verdict plan 0 r = .switch (some 1)) ∧ verdict plan 0 { r with dwell := 3 } = .keep 0) ∧
      (let r := areaWith (some 0) ⟨.running, 0⟩ ⟨.synced, 0⟩ 200001 300000;
        (0 : Fin 8) ∈ eligibles plan 0 r ∧ verdict plan 0 r = .keep 0) ∧
      (let r := areaWith (some 0) ⟨.running, 0⟩ ⟨.idle, 0⟩ 200000 300000;
        eligibles plan 0 r = [0]) ∧
      (let r := areaWith (some 0) ⟨.faulted, 0⟩ ⟨.running, 0⟩ 500000 200000;
        eligibles plan 0 r = [1]) ∧
      (∀ e ∈ [none, some 0], ∀ c ∈ [Cond.faulted, .running], ∀ q ∈ [4, 5],
        eligibles plan 0 { areaWith e ⟨c, 0⟩ ⟨.running, 0⟩ 199999 0 with quiet := q } = []) ∧
      plan.releaseFrames 0 = 6 := by decide +kernel

theorem test_witness_IsLoudest :
    IsLoudest (areaWith none ⟨.running, 0⟩ ⟨.running, 0⟩ 300000 300000) 0 [0, 1] := by
  unfold IsLoudest; decide +kernel

theorem test_the_small_plan_passes : planResult 0 none plan = .pass ∧ planResult 0 (some plan) plan' = .pass := by
  decide +kernel

/-- The decision states of FrameMarkDecidesAreas: not in SERVICE; pinned; kept; switched; released. -/
def areaCases : List State :=
  [live .ready, live .service,
    (live .service).setArea 0 { AreaRec.fresh with pin := some 1, elected := some 1 },
    (live .service).setLine 0 { lineAt .running none with peak := 200000 },
    ((live .service).setArea 0 { AreaRec.fresh with elected := some 0 }).setLine 0 (lineAt .faulted none)]

theorem test_witness_FrameMarkDecidesAreas :
    (∀ s ∈ areaCases, s.takes (s.coreWord 8 7) ∧ s.loader.standby = none ∧
      ∀ a : Fin 8, (s.area a).stamp = none ∧ (s.area a).collection = Vector.replicate 8 none) ∧
      areaCases.map (fun s => verdict plan 0 (weighed plan 0 (markCollected plan 0 s))) =
        [.keep 0, .keep 0, .keep 1, .switch (some 0), .switch none] ∧
      plan.areaCount = 1 ∧ plan.candCount 0 = 2 := by decide +kernel

/-- A mark at which area 0 switches leaves what the statements say, the notice after TE's own work included. -/
theorem test_mark_with_a_switch :
    let s := (live .service).setLine 0 { lineAt .running none with peak := 200000 }
    let t := after (.frameMark 7) s
    (t.area 0).elected = some 0 ∧ (t.tap 0).pendingTarget = some 100 ∧ (t.tap 0).glide = .steady 0 ∧
      t.command.lastStamp = 7 ∧ (t.line 0).anchor = 1025 ∧ (t.line 0).peak = 0 ∧
      t.writer.queue = [⟨.elected, 0, 7, 255, 0, 0⟩] := by decide +kernel

/-! ### Witnesses: taps -/

theorem test_witness_TapReadOfUnusableLine : ∀ c ∈ [Cond.idle, .synced, .faulted],
    let s := (live .ready).setLine 2 (lineAt c none)
    s.takes ⟨.aux, 8207, .read⟩ ∧ s.region 8207 = .aperture 0 15 ∧ (2 : Fin 24).val = plan.programLine 0 ∧
      (s.guard 0).proof = false ∧ (s.line 2).cond ≠ .running := by decide +kernel

/-- Steady reads at both ends of the bounds, and one beyond each: how far the head stands from the position. -/
def boundCases : List (Word × Nat × Int) := [(20000, 15, 1), (21008, 0, 1024), (19999, 15, 0), (21009, 0, 1025)]

theorem test_witness_TapReadInBounds :
    (∀ c ∈ boundCases,
      let s := gliding (running c.1) (.steady 0)
      let a := BitVec.ofNat 26 (8192 + c.2.1)
      s.takes ⟨.core, a, .read⟩ ∧ s.region a = .aperture 0 c.2.1 ∧ (s.guard 0).proof = false ∧
        (s.line 2).cond = .running ∧ (s.tap 0).glide = .steady 0 ∧
        (c.1 - ((20000 : Word) - word plan.frameLen - word 0 + word c.2.1)).toInt = c.2.2) ∧
      (let s := gliding (running 20006) (.gliding 100 180 0 2);
        s.takes ⟨.core, 8196, .read⟩ ∧ s.region 8196 = .aperture 0 4 ∧ (s.line 2).cond = .running ∧
          (s.tap 0).glide = .gliding 100 180 0 2 ∧
          ∀ d ∈ [100, 180], 1 ≤ ((20006 : Word) - ((20000 : Word) - word 16 - word d + word 4)).toInt ∧
            ((20006 : Word) - ((20000 : Word) - word 16 - word d + word 4)).toInt ≤ plan.lineLen 2) ∧
      plan.programLine 0 = 2 ∧ plan.lineLen 2 = 1024 := by decide +kernel

/-- The out-of-bounds cases not among the steady ones: one or both delays of a glide, the flags reported or not. -/
theorem test_witness_TapReadOutOfBounds : ∀ h ∈ [21008, 19975], ∀ e ∈ [true, false], ∀ l ∈ [true, false],
    let u := gliding (running (word h)) (.gliding 0 1 0 2)
    let s := u.setTap 0 { u.tap 0 with earlyReported := e, lateReported := l }
    s.takes ⟨.core, 8192, .read⟩ ∧ s.region 8192 = .aperture 0 0 ∧ (s.guard 0).proof = false ∧
      (s.line 2).cond = .running ∧ (s.tap 0).glide = .gliding 0 1 0 2 ∧
      ([0, 1].filter fun d => decide ((word h - ((20000 : Word) - word 16 - word d + word 0)).toInt < 1)) ++
        ([0, 1].filter fun d => decide (1024 < (word h - ((20000 : Word) - word 16 - word d + word 0)).toInt)) ≠ [] := by
  decide +kernel

/-- R46: a glide both of whose positions are late, or early, asks for one report, for the position of a. -/
theorem test_glide_out_of_bounds_reported_once :
    ([(21009, ReportKind.tapLate, (1025 : Word)), (19983, .tapEarly, -1)].all fun c =>
      let t := after (.tapRead .core 8192) (gliding (running (word c.1)) (.gliding 0 1 0 2))
      t.writer.queue.map (fun r => (r.kind, r.detailA, r.detailB)) = [(c.2.1, 0, c.2.2)]) = true := by decide +kernel

theorem test_witness_TapReadLoopAround :
    let s := (live .ready).setGuard 0 { GuardRec.start with proof := true, lastHalf := 1 }
    s.takes ⟨.core, 8207, .read⟩ ∧ s.region 8207 = .aperture 0 15 ∧ (s.guard 0).proof = true := by decide +kernel

theorem test_witness_ApertureWriteDropped : ∀ m ∈ [Master.core, .inDma, .outDma, .aux],
    (live .ready).takes ⟨m, 8192, .write 1⟩ ∧ (live .ready).region 8192 = .aperture 0 0 := by decide +kernel

/-- The tap records of FrameMarkOnTaps: at rest, turning to another delay or to its own, in a glide, at its end. -/
def tapCases : List TapRec :=
  [⟨.steady 4, none, 1280, 0, true, true⟩, ⟨.steady 4, some 4, 1280, 0, false, false⟩,
    ⟨.steady 4, some 9, 1280, 0, false, false⟩, ⟨.gliding 4 9 0 2, some 4, 1280, 0, false, false⟩,
    ⟨.gliding 4 9 1 2, none, 1280, 0, false, false⟩, ⟨.gliding 4 9 1 2, some 4, 1280, 0, false, false⟩]

theorem test_witness_FrameMarkOnTaps : ∀ u ∈ areaCases, ∀ r ∈ tapCases,
    let s := u.setTap 0 r
    s.takes (s.coreWord 8 7) ∧ s.loader.standby = none ∧ (s.tap 0).glide = r.glide ∧
      ∀ a : Fin 8, (s.area a).stamp = none ∧ (s.area a).collection = Vector.replicate 8 none := by decide +kernel

/-! ### Witnesses: zone outputs -/

theorem test_witness_ZoneWriteClamped : ∀ c ∈ [((8704 : Addr), (0 : Fin 2), 0), (8735, 1, 15)],
    (live .ready).takes ⟨.core, c.1, .write 2000000⟩ ∧ (live .ready).region c.1 = .zoneBuffer 0 c.2.1 c.2.2 := by
  decide +kernel

theorem test_witness_ZoneForeignWriteDropped : ∀ m ∈ [Master.inDma, .outDma, .aux],
    (live .ready).takes ⟨m, 8735, .write 5⟩ ∧ (live .ready).region 8735 = .zoneBuffer 0 1 15 ∧ m ≠ .core := by
  decide +kernel

theorem test_witness_OutputReadAnswered :
    (∀ f ∈ [Feed.dormant, .live, .lapsing, .fallback], ∀ b ∈ [true, false], ∀ c ∈ [StoreCond.invalid, .valid],
      let u := (live .ready).setGuard 0 { GuardRec.start with state := f, muted := b }
      let s := u.setStore { u.store with cond := c, words := u.store.words.set 2 1 }
      s.takes ⟨.outDma, 8704, .read⟩ ∧ s.region 8704 = .zoneBuffer 0 0 0 ∧ (s.guard 0).state = f ∧
        (s.store.effective 0).mode = if c = .valid then .fade else .mute) := by decide +kernel

/-- The guard records of FrameMarkOnGuards: fed exactly F words or one short of it, at each miss count that matters. -/
theorem test_witness_FrameMarkOnGuards :
    (∀ f ∈ [Feed.dormant, .live, .lapsing, .fallback], ∀ n ∈ [15, 16], ∀ k ∈ [0, 1], ∀ w ∈ [0, 2], ∀ m ∈ [0, 1],
      let u := (live .ready).setGuard 0 { GuardRec.start with state := f, fed := n, miss := k }
      let s := u.setStore { u.store with cond := .unsealed, words := (u.store.words.set 1 (word w)).set 2 (word m) }
      s.takes (s.coreWord 8 7) ∧ (s.guard 0).fed = n ∧ (s.store.effective 0).watchFrames = w) ∧
      plan.frameLen = 16 ∧ plan.zoneCount = 1 := by decide +kernel

theorem test_witness_SafetyEntries :
    let t := SafetyStore.reset (Vector.replicate 193 9)
    t.cond = .invalid ∧ ({ t with cond := .valid } : SafetyStore).cond ≠ .invalid ∧
      (({ t with cond := .valid } : SafetyStore).effective 0).watchFrames = 8 ∧
      (GuardRec.start.entriesChanged ⟨0, 2, .mute, true⟩ ⟨0, 0, .fade, false⟩ true).yielding = false ∧
      (({ GuardRec.start with state := .lapsing, miss := 1 } : GuardRec).entriesChanged ⟨0, 2, .mute, true⟩
        ⟨0, 1, .mute, true⟩ false) = { GuardRec.start with state := .live } := by decide +kernel

theorem test_witness_YieldEdgeTaken : ∀ level ∈ [true, false], ∀ d ∈ [Device.ready, .service],
    let s : State := { live d with yieldLevel := !level }
    s.betweenWords ∧ s.yieldLevel ≠ level ∧ s.zoneInUse 0 = true ∧ s.zoneInUse 1 = false ∧
      ({ s with command := CommandUnit.reset .powerOn } : State).betweenWords := by decide +kernel

/-! ### Witnesses: the memory path -/

theorem test_witness_PlainWords :
    (∀ w ∈ [(⟨.aux, 5000, .write 1⟩ : UpWord), ⟨.inDma, 8704, .read⟩, ⟨.core, 4095, .write 3⟩],
      (live .ready).takes w) ∧
      (let s := after (.resetEnd 5 false) State.reset;
        s.betweenWords ∧ s.command.device = .starting) ∧
      presents (.load 1 0) cold = some (cold.coreWord 0 257) := by decide +kernel

/-- Words that pass plain: in no region, a read of a zone buffer, a write of a plan-area word nobody owns. -/
theorem test_witness_passesPlain :
    (live .ready).passesPlain ⟨.aux, 5000, .write 1⟩ ∧ (live .ready).passesPlain ⟨.inDma, 8704, .read⟩ ∧
      (live .ready).passesPlain ⟨.core, 4095, .write 3⟩ := by
  unfold State.passesPlain
  rw [show (live .ready).region 5000 = .noRegion by decide +kernel,
    show (live .ready).region 8704 = .zoneBuffer 0 0 0 by decide +kernel,
    show (live .ready).region 4095 = .planArea 4095 by decide +kernel]
  exact ⟨trivial, by decide, by decide⟩

theorem test_witness_WordInHandHoldsBackTheRest :
    State.reset.path.resetHeld = true ∧
      (let s := after (.tailUpdate 0) cold;
        s.path.resetHeld = false ∧ s.path.inHand ≠ none ∧
          ∀ x ∈ [OwnAccess.planRead 1024, .answerWrite 5, .headWrite 1, .statusWrite 16 5, .imageWrite 0 5],
            (own s x).path.inHand ≠ none ∧ (own s x).path.port = some (.own x)) := by decide +kernel

/-- R88: the end of an answer write in the middle of a word reaches CU at the word's end. -/
theorem test_answer_write_in_mid_word :
    let u := after (.plainWord .aux 5000 .read) (cold.setCommand { cold.command with slot := .answering })
    let s := after .answerWriteComplete (own u (.answerWrite 5))
    let t := after .upstreamAccessComplete (after .portGrant s)
    s.command.slot = .answering ∧ s.memRead 1 = 5 ∧ s.path.port = none ∧ t.command.slot = .idle ∧
      t.path.inHand = none := by decide +kernel

theorem test_witness_PlanAreaPlacedByStraps :
    planOffset 63 66064383 = some 4095 ∧ planOffset 63 66064384 = none ∧ planOffset 63 66060287 = none ∧
      State.reset.path.resetHeld = true ∧ (after (.resetEnd 63 false) State.reset).path.straps = 63 := by
  decide +kernel

/-- The regions of the small plan at their ends, and beside them. -/
theorem test_regions_of_the_small_plan :
    (live .ready).path.straps = 0 ∧ ([8191, 8192, 8207, 8208, 8704, 8720, 8735, 8736, 16384, 19455, 19456].map fun a =>
      (live .ready).region (BitVec.ofNat 26 a)) =
        [.noRegion, .aperture 0 0, .aperture 0 15, .noRegion, .zoneBuffer 0 0 0, .zoneBuffer 0 1 0, .zoneBuffer 0 1 15,
          .noRegion, .lineMemory 0 0, .lineMemory 2 1023, .noRegion] ∧
      cold.loader.live = none ∧ planOffset cold.path.straps 8192 = none := by decide +kernel

theorem test_witness_ProtectedWriteDropped : ∀ off ∈ [1, 6, 7, 16, 117, 256, 511],
    cold.takes ⟨.core, planAddr cold.path.straps off, .write 5⟩ ∧ protectedOffset off = true := by
  decide +kernel

theorem test_witness_PortGrantArbitrates :
    (let s := busy cold ⟨⟨.aux, 5000, .read⟩, .plain, [], [], []⟩ (.read 5000);
      s.path.port ≠ none) ∧
      (cold.path.port = none ∧ upstreamWaits cold.path = false ∧ ownWaits cold.path = false) ∧
      (∀ n ∈ [7, 8], ∀ x ∈ [OwnAccess.answerWrite 3, .detailWrite 0 3],
        let h : InHand := ⟨⟨.aux, 5000, .read⟩, .plain, [.read 5000], [], []⟩
        let s := cold.setPath { cold.path with inHand := some h, ownCU := [x], count := n }
        s.path.port = none ∧ s.path.inHand = some h ∧ ownWaits s.path = true ∧ upstreamWaits s.path = true ∧
          (s.path.count < 8 ↔ n = 7) ∧
          s.path.pointer.rotation.find? (fun k => !(s.path.issued k).isEmpty) = some .cu ∧
          s.path.issued .cu = [x] ∧ hasCompletion x = decide (x = .answerWrite 3)) := by decide +kernel

/-- The words in hand of UpstreamAccessComplete: more accesses to come, none, and each thing that may have waited. -/
def upstreamCases : List State :=
  let r : InHand := ⟨⟨.aux, 18432, .read⟩, .plain, [], [], []⟩
  let w : InHand := ⟨⟨.aux, 5000, .write 4⟩, .store, [], [], []⟩
  let s := live .ready
  let one := busy s r (.read 18432)
  [busy s { r with accesses := [.read 7] } (.read 18432), one, busy s w (.write 5000 4),
    busy s { r with watchers := [0] } (.read 18432),
    one.setPath { one.path with waiting := [⟨.aux, 5000, .read⟩] },
    one.setPath { one.path with held := [.yieldEdge true] },
    one.setPath { one.path with held := [.yieldEdge true], waiting := [⟨.aux, 5000, .read⟩, ⟨.aux, 5001, .read⟩] }]

theorem test_witness_UpstreamAccessComplete : ∀ s ∈ upstreamCases,
    s.mem.wf ∧ s.path.port ≠ none ∧ s.path.inHand ≠ none ∧ s.command.device ≠ .starting ∧
      matchingUnits s ⟨.aux, 5000, .read⟩ = [] ∧ s.region 5000 = .noRegion := by decide +kernel

/-- R88: the event that waited is taken before the words that waited, and those until one is in hand. -/
theorem test_events_before_words :
    let s := after .upstreamAccessComplete (upstreamCases.getLast (by decide))
    s.yieldLevel = true ∧ s.path.held = [] ∧ s.path.waiting = [⟨.aux, 5001, .read⟩] ∧
      (s.path.inHand.map (·.word)) = some ⟨.aux, 5000, .read⟩ := by decide +kernel

theorem test_witness_AnswersFormedFromMemory :
    blendWeight 256 64 63 255 ≤ 255 ∧ blendWeight 16 1 0 15 = 240 ∧
      formAnswer (.faded 7) [ofSample (-3000001)] = some (ofSample (-2625000)) := by decide +kernel

theorem test_witness_TapAnswersTrimmed :
    let u := (gliding (live .ready) (.steady 4)).memWrite 18432 (ofSample (-1))
    let s := busy u ⟨⟨.core, 8192, .read⟩, .steady 0 1280, [], [], []⟩ (.read 18432)
    let b := busy u ⟨⟨.core, 8192, .read⟩, .blend 0 256 1280, [], [7], []⟩ (.read 18432)
    (∀ t ∈ [s, b], t.path.held = [] ∧ t.path.waiting = [] ∧ (t.tap 0).trim = 1280) ∧
      legalSample (s.memRead 18432) = -1 ∧
      blend 256 (legalSample 7) (legalSample (b.memRead 18432)) = -1 := by decide +kernel

/-! ### Witnesses: plans and loads -/

/-- Each header word out of its range by one, with those before it good (R104). -/
theorem test_witness_HeaderCheckedFirst :
    ([(1025, 15), (1026, 25), (1027, 9), (1028, 49), (1029, 67108849), (1030, 67108833), (1031, 67108864)].map
      fun c => fieldFailure (planOf (c :: planTable))) =
        [some 1025, some 1026, some 1027, some 1028, some 1029, some 1030, some 1031] ∧
      fieldFailure (planOf ((1029, 67108848) :: planTable)) = none ∧
      fieldFailure (planOf ((1030, 67108832) :: planTable)) = none := by decide +kernel

/-- R105 to R107, R113: a table word that fails is named, a repeated candidate where it appears again, and of two that
fail the lower. -/
theorem test_witness_CheckedPlansAreSound_fields :
    ([[(1032, 1000)], [(1031, 16896)], [(1033, 4)], [(1034, 3)], [(1035, 8388608)], [(1036, 0)], [(1175, 9)], [(1176, 2)],
        [(1177, 0)], [(1184, 8388608)], [(1186, 256)], [(1188, 2057)], [(1188, 67586)], [(1287, 0)], [(1288, 1)],
        [(1289, 4096)], [(1290, 993)], [(1292, 993)], [(1292, 993), (1036, 256)]].map
      fun l => fieldFailure (planOf (l ++ planTable))) =
        [some 1032, some 1032, some 1033, some 1034, some 1035, some 1036, some 1175, some 1176, some 1177, some 1184,
          some 1186, some 1188, some 1188, some 1287, some 1288, some 1289, some 1290, some 1292, some 1036] := by
  decide +kernel

/-- R108, R109: the region whose words meet one placed before it is named by its placing word, and the first layout
word that differs. -/
theorem test_witness_CheckedPlansAreSound_regions :
    regionFailure 0 (planOf ((1029, 4095) :: planTable)) = some 1029 ∧
      regionFailure 0 (planOf ((1029, 4096) :: planTable)) = none ∧
      regionFailure 0 (planOf ((1043, 16384) :: planTable)) = some 1043 ∧
      fieldFailure (planOf ((1043, 16384) :: planTable)) = none ∧
      layoutFailure plan (planOf ([(1043, 32768), (1033, 2)] ++ planTable)) = some 1033 := by decide +kernel

theorem test_witness_PlanReadCompletes :
    let reading := (live .ready).setLoader { (live .ready).loader with state := .reading, readInFlight := true }
    let idle := live .ready
    (∀ off ∈ [1861, 1862],
      let s := own (reading.setLoader { reading.loader with cursor := off }) (.planRead off)
      s.path.inHand = none ∧ s.path.port = some (.own (.planRead off)) ∧ s.loader.state = .reading ∧
        s.loader.readInFlight = true ∧ s.loader.staleRead = false ∧ s.loader.cursor = off) ∧
      (∀ s ∈ [own (reading.setLoader { reading.loader with staleRead := true }) (.planRead 1024),
          own (idle.setLoader { idle.loader with staleRead := true }) (.planRead 1024), own idle (.planRead 1024)],
        s.path.inHand = none ∧ s.path.port = some (.own (.planRead 1024))) := by decide +kernel

/-- PL at its checks, the words of a table read. -/
def checking (s : State) (table : List (Nat × Nat)) : State :=
  s.setLoader { s.loader with state := .checking, loadWords := planOf table }

/-- One failing load for each check (R113), each passing the checks before it. -/
theorem test_witness_FailedChecksRejectTheLoad :
    (let u := checking (live .ready) planTable;
      let torn := u.setLoader { u.loader with torn := some (1325, 1400) }
      checkLoad 0 torn.loader = .torn 1325 1400 ∧ torn.betweenWords ∧ torn.loader.state = .checking) ∧
      checkLoad 0 (checking (live .ready) ((1024, 1) :: planTable)).loader = .checksum ∧
      checkLoad 0 (checking (live .ready) ((1289, 4096) :: planTable)).loader = .invalid 1289 ∧
      checkLoad 0 (checking (live .ready) ((1029, 0) :: planTable)).loader = .invalid 1029 ∧
      checkLoad 0 (checking (live .ready) ((1031, 20480) :: planTable)).loader = .layout 1031 := by decide +kernel

theorem test_witness_PassedChecksInstallOrWait :
    (∀ s ∈ [checking cold planTable, checking (live .service) planTable],
      s.betweenWords ∧ s.loader.state = .checking ∧ s.loader.torn = none ∧
        s.loader.sum = Plan.planSum s.loader.loadWords ∧
        planResult s.path.straps s.loader.live s.loader.loadWords = .pass) ∧
      cold.loader.live = none := by decide +kernel

theorem test_witness_FrameMarkSwapsThePlans :
    let u := (live .service).setArea 0 { AreaRec.fresh with elected := some 0 }
    let s := u.setLoader { u.loader with state := .waitingSwap, standby := some plan' }
    s.takes (s.coreWord 8 7) ∧ s.loader.state = .waitingSwap ∧
      (let t := after (.frameMark 7) s;
        t.loader.state = .idle ∧ t.loader.outcome = .swapped ∧ (t.tap 0).trim = 1024 ∧
          (t.tap 0).pendingTarget = some 101 ∧ t.writer.queue.map (·.kind) = [.planSwapped]) := by decide +kernel

/-- The swap mark of an area that is decided and left without a source: its zone keeps what TE's own work left it. -/
theorem test_witness_FrameMarkSwapsThePlans_none :
    let u := ((live .service).setArea 0 { AreaRec.fresh with elected := some 0 }).setLine 0 (lineAt .faulted none)
    let v := u.setTap 0 ⟨.steady 4, some 9, 1280, 3, true, false⟩
    let s := v.setLoader { v.loader with state := .waitingSwap, standby := some plan' }
    s.takes (s.coreWord 8 7) ∧ (s.area 0).stamp = none ∧ (s.area 0).collection = Vector.replicate 8 none ∧
      (let t := after (.frameMark 7) s;
        (t.area 0).elected = none ∧ t.tap 0 = ⟨.gliding 4 9 0 8, none, 1024, 3, false, false⟩) := by decide +kernel

/-! ### Witnesses: commands -/

/-- The operands of WATCH at the edges of R149's ranges, and each just beyond. -/
theorem test_witness_PostOutcomes :
    cold.command.device ≠ .starting ∧
      ([#v[3 + 256, 67108863, 1, 18], #v[3 + 256, 67043328, 65536, 18], #v[3 + 768, 0, 0, 0], #v[512, 0, 0, 0],
          #v[256, 1, 1, 4096 + 20]].all fun o => postOutcome cold 10 o = .done) ∧
      ([#v[4 + 256, 0, 1, 18], #v[0, 0, 1, 18], #v[1024, 0, 1, 18], #v[256, 67108864, 1, 18], #v[256, 0, 0, 18],
          #v[256, 0, 65537, 18], #v[256, 67108863, 2, 18], #v[256, 5, 1, 16], #v[256, 5, 1, 2],
          #v[256, 0, 1, 4096 + 20]].all fun o => postOutcome cold 10 o = .badOperand) ∧
      (∀ code ∈ [0, 12, 255], postOutcome cold code #v[0, 0, 0, 0] = .unknown) ∧
      postOutcome (live .service) 5 #v[0, 1, 0, 0] = .done ∧
      ([#v[0, 2, 0, 0], #v[1, 0, 0, 0]].all fun o => postOutcome (live .service) 5 o = .badOperand) := by decide +kernel

/-- A post is taken with each code of the table and one beyond. -/
theorem test_witness_CommandSlot :
    (∀ code ∈ [0, 2, 12], cold.takesPost code 41 0 ∧ postOutcome cold code cold.command.shadow ≠ .done ∧
      Instr.unknownCommand (BitVec.ofNat 8 code) 41 0 ∈ postRows (BitVec.ofNat 8 code) 41 0) ∧
      (let s := cold.setCommand { cold.command with slot := .answering, lastTag := some 40 };
        s.takes (s.postOf 7 77 0) ∧ Instr.mute 77 0 ∈ postRows 7 77 0 ∧ s.command.slot = .answering ∧
          s.command.lastTag = some 40 ∧ (own s (.answerWrite 5)).path.inHand = none ∧
          (own s (.answerWrite 5)).path.port = some (.own (.answerWrite 5))) := by
  decide +kernel

/-- 11.2: answer words. -/
theorem test_answer_words :
    [Answer.done, .badState, .badOperand, .unknown].map (answerWord 41) = [297, 553, 809, 1065] := by decide

/-- 7.6: TALLY's two detail writes and its answer; the second post refused. -/
theorem test_tally_of_7_6 :
    let u := (live .service).setTap 0 { TapRec.unused with saturations := 6 }
    let s := u.setGuard 0 { GuardRec.start with ceilingCount := 14 }
    let t := after (.tally 41 0) s
    t.path.ownCU = [.detailWrite 0 6, .detailWrite 1 14, .answerWrite (41 + 256)] ∧ (t.tap 0).saturations = 0 ∧
      (t.guard 0).ceilingCount = 0 ∧ t.command.slot = .answering := by decide +kernel

theorem test_witness_SnoopedWritesTaken :
    (∀ n ∈ [(0 : Fin 4), 3], cold.takes (cold.coreWord (2 + n.val) 9)) ∧
      (let s := cold.setWriter { cold.writer with head := 43, tail := 44 };
        ∀ v ∈ [43, 45, 63, 64], s.takes (s.coreWord 9 (word v))) ∧
      cold.takes (cold.coreWord 8 7) ∧ cold.loader.live = none ∧
      (∀ off ∈ [1024, 1862], ∀ st ∈ [LoadState.reading, .idle], ∀ torn ∈ [none, some (1500, 1400)],
        let s := cold.setLoader { cold.loader with state := st, torn := torn }
        s.takes (s.coreWord off 5)) := by decide +kernel

theorem test_witness_LoadBegins : ∀ b ∈ [true, false],
    let s := cold.setLoader { cold.loader with staleRead := b, readInFlight := b }
    s.takesPost 1 7 0 ∧ s.loader.state = .idle := by decide +kernel

theorem test_witness_DropGivesUpThePlan : ∀ st ∈ [LoadState.idle, .reading, .checking, .waitingSwap],
    let s := (live .ready).setLoader { (live .ready).loader with state := st }
    s.takesPost 2 7 0 ∧ s.command.device = .ready := by decide +kernel

theorem test_witness_ArmAndDisarm :
    ((live .ready).takesPost 3 7 0 ∧ (live .ready).command.device = .ready) ∧
      (let s := (live .service).setUnit 2 { WatchUnit.reset with on := true, base := 5000, scope := .service };
        s.takesPost 4 7 0 ∧ s.command.device = .service) := by decide +kernel

theorem test_witness_PinAndFree : ∀ e ∈ [none, some 1],
    let u := shadow (live .service) #v[0, 1, 0, 0]
    let s := u.setArea 0 { AreaRec.fresh with elected := e, pin := e }
    s.takesPost 5 7 0 ∧ s.takesPost 6 7 0 ∧ s.command.device = .service ∧ s.command.shadow[0].toNat = 0 ∧
      s.command.shadow[1].toNat = 1 ∧ 0 < plan.areaCount ∧ 1 < plan.candCount 0 := by decide +kernel

theorem test_witness_MuteProofAndClear : ∀ n ∈ [0, 255], ∀ on ∈ [true, false],
    let s := shadow ((live .ready).setLine 0 (lineAt .faulted none)) #v[word n, if on then 1 else 0, 0, 0]
    s.takesPost 7 7 0 ∧ s.takesPost 9 7 0 ∧ s.command.device ≠ .cold ∧
      (n < plan.zoneCount ∨ n = 255) ∧ (n = 0 → s.takesPost 8 7 0 ∧ s.yieldLevel = false) ∧
      plan.zoneCount ≤ 48 ∧ plan.lineCount ≤ 24 := by decide +kernel

theorem test_witness_WatchOperations : ∀ op ∈ [256, 512, 768], ∀ k ∈ [0, 3],
    let s := shadow cold #v[word (k + op), 5000, 1, 4096 + 256 + 16 * 15 + 6]
    s.takesPost 10 7 0 ∧ postOutcome s 10 s.command.shadow = .done ∧ s.command.shadow[0].toNat % 256 = k := by
  decide +kernel

theorem test_witness_TallyTakesTheCounts :
    (live .ready).takesPost 11 7 0 ∧ (live .ready).command.device ≠ .cold ∧
      (live .ready).command.shadow[0].toNat = 0 ∧ 0 < plan.zoneCount := by decide +kernel

/-! ### Witnesses: the address watch -/

/-- Cold, with unit 1 watching address 5,000 for AUX writes. -/
def watching (x : Action) (f : Option FirstHit) : State :=
  cold.setUnit 1 { WatchUnit.reset with
    on := true, base := 5000, length := 1, kinds := .write, masters := 8, action := x, firstHit := f }

theorem test_witness_WatchedWordsRecorded :
    (∀ f ∈ [none, some ⟨1, .aux, true, some 2⟩],
      let s := watching .note f
      s.takes ⟨.aux, 5000, .write 6⟩ ∧ s.region 5000 = .noRegion ∧
        matchingUnits s ⟨.aux, 5000, .write 6⟩ = [1] ∧ matchingUnits s ⟨.aux, 5001, .write 6⟩ = [] ∧
        matchingUnits s ⟨.aux, 5000, .read⟩ = [] ∧ matchingUnits s ⟨.core, 5000, .write 6⟩ = []) := by decide +kernel

/-- R146, R148: two units hit for the first time are reported in unit order, and one whose record stands is not. -/
theorem test_first_hits_in_unit_order :
    let r : WatchUnit := { WatchUnit.reset with on := true, base := 5000, length := 1 }
    let s := ((cold.setUnit 3 r).setUnit 0 r).setUnit 1 { r with firstHit := some ⟨1, .aux, true, some 2⟩ }
    ((s.looked ⟨.aux, 5000, .write 6⟩).writer.queue.map fun q => (q.subject, q.detailA, q.detailB)) =
      [(0, 5000, 515), (3, 5000, 515)] ∧
      ∀ u ∈ [(0 : Fin 4), 1, 3], (s.unit u).matches ⟨.aux, 5000, .write 6⟩ = true := by decide +kernel

/-- R146, R152: a read matched by a unit whose first-hit record stands leaves the record as it is, and its completion
marks the unit's words. -/
theorem test_read_matched_again :
    let f : FirstHit := ⟨1, .aux, true, some 2⟩
    let s := cold.setUnit 1 { WatchUnit.reset with
      on := true, base := 5000, length := 1, kinds := .read, masters := 8, firstHit := some f }
    let t := after .portGrant (after (.plainWord .aux 5000 .read) s)
    let u := after .upstreamAccessComplete (t.setWriter { t.writer with dirty := [] })
    (t.path.inHand.map (·.watchers)) = some [1] ∧ (u.unit 1).firstHit = some f ∧ (u.unit 1).hits = 1 ∧
      u.writer.dirty = [106, 107, 108, 109] := by decide +kernel

theorem test_witness_FencedWriteDropped :
    (watching .fence none).takesWords ∧ ((watching .fence none).unit 1).action = .fence ∧
      ((watching .fence none).unit 1).sees ⟨.aux, 5000, .write 6⟩ :=
  ⟨by decide +kernel, by decide +kernel, by unfold WatchUnit.sees; decide +kernel⟩

/-! ### Witnesses: reports and the status block -/

/-- The queue and the dirty set that RW goes on with. -/
theorem test_witness_HeadWritePublishes :
    ∀ d ∈ [[], [22, 30]], ∀ n ∈ [1, 2],
    let u := cold.setWriter { cold.writer with
      dirty := d, queue := List.replicate n ⟨.elected, 0, 7, 0, 1, 0⟩, work := .report, head := 63, tail := 1 }
    let s := own u (.headWrite 0)
    s.mem.wf ∧ s.path.inHand = none ∧ s.path.port = some (.own (.headWrite 0)) ∧ s.writer.queue.tail.length = n - 1 := by decide +kernel

theorem test_witness_StatusWriteCompletes :
    ∀ d ∈ [Device.starting, .cold], ∀ l ∈ [[], [22]], ∀ n ∈ [0, 1], ∀ k ∈ [192, 193],
    let u := (cold.setWriter { cold.writer with
      dirty := l, queue := List.replicate n ⟨.elected, 0, 7, 0, 1, 0⟩, work := .status }).setCommand
        { cold.command with device := d }
    let s := own (u.setStore { u.store with cursor := k }) (.statusWrite 117 4)
    s.mem.wf ∧ s.path.inHand = none ∧ s.path.port = some (.own (.statusWrite 117 4)) ∧ s.command.device = d := by decide +kernel

/-- 11.5: words of records in use and not in use, and of a unit at its reset values. -/
theorem test_status_words :
    ([17, 22, 23, 30, 33, 54, 55, 102, 103, 104, 105].map (live .ready).statusWord) =
      [0, 2147549183, 65535, 2147483648, 0, 2147483648, 0, 246, 0, 0, 0] ∧
      (live .ready).statusWord 16 = 2 ∧ cold.statusWord 22 = 65535 ∧ cold.statusWord 20 = 16711682 := by decide +kernel

/-! ### Witnesses: the safety store -/

theorem test_witness_StoreStartsUp :
    (let s := after (.resetEnd 5 false) State.reset;
      s.betweenWords ∧ s.store.checkPending = true ∧ s.store.cursor = 0) ∧
      (∀ i ∈ [(191 : Fin 193), 192], ∀ d ∈ [Device.starting, .cold], ∀ l ∈ [[], [17]],
        let u := (cold.setCommand { cold.command with device := d }).setWriter { cold.writer with dirty := l }
        let s := own u (.imageWrite i 0)
        s.mem.wf ∧ s.path.inHand = none ∧ s.path.port = some (.own (.imageWrite i 0)) ∧ s.writer.work = .free) := by decide +kernel

/-- BUSY or not, without a permit and with two. -/
def storeCases : List SafetyStore :=
  [cold.store, { cold.store with permit := some 3 }, { cold.store with permit := some 192 },
    { cold.store with programming := some (56, 5) }]

theorem test_witness_PermitRequestTaken : ∀ t ∈ storeCases, ∀ n ∈ [192, 193, 3],
    let s := cold.setStore t
    s.takes (s.coreWord 10 (word n)) := by decide +kernel

theorem test_witness_ImageWritesTaken :
    (∀ t ∈ storeCases,
      let s := cold.setStore t
      s.takes (s.coreWord 704 5)) ∧
      (∀ m ∈ [Master.inDma, .outDma, .aux], cold.takes ⟨m, planAddr cold.path.straps 704, .write 5⟩ ∧ m ≠ .core) := by
  decide +kernel

theorem test_witness_ProgrammingCompletes :
    ∀ i ∈ [(0 : Fin 193), 191, 192], ∀ c ∈ [StoreCond.valid, .unsealed, .invalid],
    let s := (live .ready).setStore { (live .ready).store with programming := some (i, 5), cond := c }
    s.betweenWords ∧ s.store.programming = some (i, 5) := by decide +kernel

/-- R70, R83, R85: a programming that changes a zone's state and its YIELDING flag marks its word. -/
theorem test_programming_marks_the_zone :
    let u : State := { (live .ready).setGuard 0 { GuardRec.start with state := .lapsing, miss := 1, yielding := true } with
      yieldLevel := true }
    let s := u.setStore { u.store with
      cond := .invalid, programming := some (192, 9), words := (u.store.words.set 0 8).set 1 1 }
    let t := after .checksumProgrammingCompletion s
    t.store.cond = .valid ∧ (t.guard 0).state = .live ∧ (t.guard 0).yielding = false ∧ 54 ∈ t.writer.dirty := by
  decide +kernel

/-! ### Witnesses: resets and invariants -/

theorem test_witness_ResetLeavesTheResetValues :
    (∀ c ∈ [(Instr.powerOnReset, ResetCause.powerOn), (.resetPinAsserted, .resetPin)],
      ((after c.1 (live .service)).command.cause = c.2 ∧ (after c.1 (live .service)).loader.live = none)) ∧
      (live .service).store.programming = none ∧ (live .service).path.port = none ∧ (live .service).mem.wf ∧
      (own cold (.answerWrite 5)).path.port = some (.own (.answerWrite 5)) ∧ (OwnAccess.answerWrite 5).data = some 5 ∧
      (busy cold ⟨⟨.aux, 5000, .write 4⟩, .store, [], [], []⟩ (.write 5000 4)).path.port =
        some (.upstream (.write 5000 4)) ∧
      (busy cold ⟨⟨.aux, 5000, .read⟩, .plain, [], [], []⟩ (.read 5000)).path.port = some (.upstream (.read 5000)) ∧
      (own cold (.planRead 1024)).path.port = some (.own (.planRead 1024)) ∧ (OwnAccess.planRead 1024).data = none := by
  decide +kernel

theorem test_witness_ResetEndBeginsStartUp :
    cold.path.resetHeld = false ∧ State.reset.path.resetHeld = true ∧ State.reset.command.device = .starting ∧
      State.reset.writer = ReportWriter.reset := by decide +kernel

/-- A state with a command waiting, for the statements about steps; the small plan is live. -/
theorem test_witness_steps :
    let s : State := { (live .service).setWriter { cold.writer with dirty := [16, 117] } with
      pending := [.frameMark 7] }
    s.mem.wf ∧ s.path.count ≤ 8 ∧ s.store.cond ≠ .valid ∧ s.writer.queue.length ≤ 8 ∧
      s.writerAccesses = [] ∧ s.writer.dirty.Pairwise (· < ·) ∧ step s = exec (.frameMark 7) { s with pending := [] } :=
  ⟨by decide, by decide, by decide, by decide, by decide, by decide, rfl⟩

/-- `AlignmentOk` in a state with a live plan, a pinned area and a glide. -/
theorem test_witness_AlignmentStaysSound :
    let u := (live .service).setArea 0 { AreaRec.fresh with pin := some 1, elected := some 1 }
    AlignmentOk (gliding u (.gliding 100 180 1 2)) := by
  intro u
  have live_eq : ∀ p, some plan = some p → plan = p := fun _ h => Option.some.inj h
  refine ⟨⟨by decide +kernel, fun p h => ?_, fun q h => ?_, by decide +kernel, by decide +kernel⟩, ?_, ?_, ?_⟩
  · obtain rfl := live_eq p h; exact test_the_small_plan_passes.1
  · exact absurd (show none = some q from h) (by simp)
  · have pins : ∀ a i : Fin 8, ((gliding u (.gliding 100 180 1 2)).area a).pin = some i →
        ((gliding u (.gliding 100 180 1 2)).area a).elected = some i := by decide +kernel
    have sources : ∀ a i : Fin 8, ((gliding u (.gliding 100 180 1 2)).area a).elected = some i →
        a.val < plan.areaCount ∧ i.val < plan.candCount a.val := by decide +kernel
    exact fun a => ⟨pins a, fun i h => ⟨plan, rfl, sources a i h⟩⟩
  · have all : ∀ a : Fin 8, ((gliding u (.gliding 100 180 1 2)).area a).stamp = none ∧
        ((gliding u (.gliding 100 180 1 2)).area a).collection = Vector.replicate 8 none := by decide +kernel
    exact all
  · intro p h z hz
    obtain rfl := live_eq p h
    have one : plan.zoneCount = 1 := by decide +kernel
    obtain rfl : z = 0 := Fin.ext (by omega)
    have bound : 100 ≤ plan.delayBound 0 ∧ 180 ≤ plan.delayBound 0 ∧ 1 < 2 := by decide +kernel
    exact ⟨bound, fun t h => absurd (show none = some t from h) (by simp)⟩

end Sys2Proof.Tests
end

section
/-!
PROOFS. Writes to line memories (chapter 1): the sync of an IDLE line (R5) and the dropped foreign write (R9). First what
the line tracker does in each case and what that leaves, then the two obligations.
-/
namespace Sys2Proof.Machine

/-! ### The word reaches the line tracker (R1, R87, R89) -/

theorem exec_writerWrite (m : Master) (a : Addr) (v : Word) (s : State) :
    exec (.writerWrite m a v) s = .next (presentWord ⟨m, a, .write v⟩ s) := rfl

theorem exec_lineForeignWrite (m : Master) (a : Addr) (v : Word) (s : State) :
    exec (.lineForeignWrite m a v) s = .next (presentWord ⟨m, a, .write v⟩ s) := rfl

theorem present_writerWrite {s : State} {p : Plan} {l : Fin 24} {o : Nat} {m : Master} {a : Addr} {v : Word}
    (h : s.takes ⟨m, a, .write v⟩) (hl : s.loader.live = some p) (hr : s.region a = .lineMemory l o)
    (hw : p.isWriter l m = true) :
    presentWord ⟨m, a, .write v⟩ s =
      startTreatment ⟨m, a, .write v⟩ [] (alteredTreatment ⟨m, a, .write v⟩ (ofSample (legalSample v)))
        (ltWriterWrite p l o v (s.looked ⟨m, a, .write v⟩)) := by
  rw [present_line h hl hr]
  simp [ltWord, hw]

theorem present_lineForeignWrite {s : State} {p : Plan} {l : Fin 24} {o : Nat} {m : Master} {a : Addr} {v : Word}
    (h : s.takes ⟨m, a, .write v⟩) (hl : s.loader.live = some p) (hr : s.region a = .lineMemory l o)
    (hw : p.isWriter l m = false) :
    presentWord ⟨m, a, .write v⟩ s =
      startTreatment ⟨m, a, .write v⟩ [] droppedTreatment
        (ltForeignWrite l ⟨m, a, .write v⟩ (s.looked ⟨m, a, .write v⟩)) := by
  rw [present_line h hl hr]
  simp [ltWord, hw]

/-! ### What the end of the taking leaves of LT and RW -/

@[simp] theorem line_startTreatment_altered (w : UpWord) (u : List (Fin 4)) (x : Word) (s : State) (k : Fin 24) :
    (startTreatment w u (alteredTreatment w x) s).line k = s.line k := rfl

@[simp] theorem line_startTreatment_dropped (w : UpWord) (s : State) (k : Fin 24) :
    (startTreatment w [] droppedTreatment s).line k = s.line k := rfl

theorem Marked.startTreatment_altered {s : State} {off : Nat} (h : Marked s off) (w : UpWord) (u : List (Fin 4))
    (x : Word) : Marked (startTreatment w u (alteredTreatment w x) s) off := h.congr rfl rfl

theorem Reported.startTreatment_dropped {s t : State} {k : ReportKind} {n : Nat} {a b : Word}
    (h : Reported s t k n a b) (w : UpWord) : Reported s (startTreatment w [] droppedTreatment t) k n a b := h.record

/-! ### A sync (R5) -/

theorem ltWriterWrite_idle {l : Fin 24} {s : State} (p : Plan) (o : Nat) (v : Word) (hc : (s.line l).cond = .idle) :
    ltWriterWrite p l o v s = ltSync l o ((s.line l).taken (legalSample v)) s := by
  simp [ltWriterWrite, LineRec.taken, hc]

theorem line_ltSync_self (l : Fin 24) (o : Nat) (r : LineRec) (s : State) :
    (ltSync l o r s).line l = { r with head := word (o + 1), prev := none, cond := .synced } := by
  simp [ltSync]

theorem line_ltSync_ne {l k : Fin 24} (h : k ≠ l) (o : Nat) (r : LineRec) (s : State) :
    (ltSync l o r s).line k = s.line k := by
  simp [ltSync, line_setLine_ne, h]

theorem marked_ltSync (l : Fin 24) (o : Nat) (r : LineRec) (s : State) : Marked (ltSync l o r s) (30 + l.val) :=
  marked_statusChange _ _

theorem keeps_ltSync (l : Fin 24) (o : Nat) (r : LineRec) (s : State) :
    KeepsAllBut (.lines :: statusParts) s (ltSync l o r s) :=
  (KeepsAllBut.refl s).setLine.statusChange

/-- A line's length is a plan word, so the head that equals it stands at offset 0 of the ring. -/
theorem word_lineLen_mod (p : Plan) (l : Nat) : (word (p.lineLen l)).toNat % p.lineLen l = 0 := by
  have hlen : (word (p.lineLen l)).toNat = p.lineLen l := by
    simp [word, Plan.lineLen, Plan.num]
  rw [hlen, Nat.mod_self]

/-! ### A foreign write (R9) -/

theorem ltForeignWrite_reported {l : Fin 24} {s : State} (w : UpWord) (h : (s.line l).foreignReported = true) :
    ltForeignWrite l w s = s := by
  simp [ltForeignWrite, h]

theorem ltForeignWrite_unreported {l : Fin 24} {s : State} (w : UpWord) (h : (s.line l).foreignReported = false) :
    ltForeignWrite l w s = (s.setLine l { s.line l with foreignReported := true }).foreignWrite l.val w := by
  simp [ltForeignWrite, h]

theorem line_ltForeignWrite_self (l : Fin 24) (w : UpWord) (s : State) :
    (ltForeignWrite l w s).line l = { s.line l with foreignReported := true } := by
  cases h : (s.line l).foreignReported with
  | true => rw [ltForeignWrite_reported w h, ← h]
  | false => simp [ltForeignWrite_unreported w h]

theorem line_ltForeignWrite_ne {l k : Fin 24} (hk : k ≠ l) (w : UpWord) (s : State) :
    (ltForeignWrite l w s).line k = s.line k := by
  cases h : (s.line l).foreignReported with
  | true => rw [ltForeignWrite_reported w h]
  | false => simp [ltForeignWrite_unreported w h, line_setLine_ne, hk]

theorem reported_ltForeignWrite {l : Fin 24} {s : State} (w : UpWord) (h : (s.line l).foreignReported = false) :
    Reported s (ltForeignWrite l w s) .foreignWrite l.val (addrWord w.addr) (word (masterCode w.master)) := by
  rw [ltForeignWrite_unreported w h]
  exact reported_request _ _ _ _ _ _ rfl rfl

/-! ### The obligations -/

/-- Settles O1: the line is IDLE still when AW has looked, so the writer write is a sync (`ltSync`). -/
theorem syncOfAnIdleLine : Obligations.SyncOfAnIdleLine := by
  intro s p l o m a v ht hl hr hw hc
  have hidle : ((s.looked ⟨m, a, .write v⟩).line l).cond = .idle := by simpa using hc
  refine ⟨_, exec_writerWrite m a v s, ?_⟩
  rw [present_writerWrite ht hl hr hw, ltWriterWrite_idle p o v hidle]
  refine ⟨?record, ?lap, ?others, ?marked, ?stored⟩
  case record => simp [line_ltSync_self, LineRec.taken]
  case lap =>
    intro ho
    simp [line_ltSync_self, ho, word_lineLen_mod]
  case others =>
    intro k hk
    simp [line_ltSync_ne hk]
  case marked => exact (marked_ltSync ..).startTreatment_altered ..
  case stored => exact stores_of _ _ _ _ _ _ _ ((keeps_ltSync _ _ _ _).mono (by decide))

/-- Settles O4, by whether the line's foreign write was reported in this frame. -/
theorem lineForeignWriteDropped : Obligations.LineForeignWriteDropped := by
  intro s p l o m a v ht hl hr hw
  have hflag : ((s.looked ⟨m, a, .write v⟩).line l).foreignReported = (s.line l).foreignReported := by simp
  refine ⟨_, exec_lineForeignWrite m a v s, ?_⟩
  rw [present_lineForeignWrite ht hl hr hw]
  refine ⟨?record, ?others, fun hf => ?again, fun hf => ⟨?report, ?first⟩⟩
  case record => simp [line_ltForeignWrite_self]
  case others =>
    intro k hk
    simp [line_ltForeignWrite_ne hk]
  case again =>
    rw [ltForeignWrite_reported _ (hflag.trans hf)]
    exact dropped_of _ _ _ _ _ _ (.refl _)
  case report => exact (reported_ltForeignWrite _ (hflag.trans hf)).startTreatment_dropped _
  case first => exact dropped_of _ _ _ _ _ _ (KeepsAllBut.refl _).ltForeignWrite

end Sys2Proof.Machine
end

section
/-!
PROOFS. Words of the zone buffers (chapter 4): the dropped foreign write (R69). What the zone output controller makes of
such a write, how it is taken, then the obligation.
-/
namespace Sys2Proof.Machine

theorem exec_zoneForeignWrite (m : Master) (a : Addr) (v : Word) (s : State) :
    exec (.zoneForeignWrite m a v) s = .next (presentWord ⟨m, a, .write v⟩ s) := rfl

/-- R69: ZC treats the three masters other than CORE alike, and looks at no guard record. -/
theorem zcWord_foreignWrite {m : Master} (hm : m ≠ .core) (p : Plan) (z : Fin 48) (half : Fin 2) (a : Addr) (v : Word)
    (s : State) :
    zcWord p z half ⟨m, a, .write v⟩ s = (s.foreignWrite z.val ⟨m, a, .write v⟩, droppedTreatment) := by
  cases m with
  | core => exact absurd rfl hm
  | inDma => rfl
  | outDma => rfl
  | aux => rfl

theorem present_zoneForeignWrite {s : State} {p : Plan} {z : Fin 48} {half : Fin 2} {j : Nat} {m : Master} {a : Addr}
    {v : Word} (h : s.takes ⟨m, a, .write v⟩) (hl : s.loader.live = some p) (hr : s.region a = .zoneBuffer z half j)
    (hm : m ≠ .core) :
    presentWord ⟨m, a, .write v⟩ s =
      startTreatment ⟨m, a, .write v⟩ [] droppedTreatment
        ((s.looked ⟨m, a, .write v⟩).foreignWrite z.val ⟨m, a, .write v⟩) := by
  rw [present_zone h hl hr, zcWord_foreignWrite hm, watchersOf_write]

theorem reported_foreignWrite (s : State) (n : Nat) (w : UpWord) :
    Reported s (s.foreignWrite n w) .foreignWrite n (addrWord w.addr) (word (masterCode w.master)) :=
  reported_request _ _ _ _ _ _ rfl rfl

/-- Settles O15: ZC only asks for the report, so the drop's frame (`dropped_of`) keeps memory and every guard record. -/
theorem zoneForeignWriteDropped : Obligations.ZoneForeignWriteDropped := by
  intro s p z half j m a v ht hl hr hm
  refine ⟨_, exec_zoneForeignWrite m a v s, ?_⟩
  rw [present_zoneForeignWrite ht hl hr hm]
  refine ⟨?report, ?drop⟩
  case report => exact (reported_foreignWrite _ _ _).startTreatment_dropped _
  case drop => exact dropped_of _ _ _ _ _ _ (KeepsAllBut.refl _).foreignWrite

end Sys2Proof.Machine
end

section
/-!
PROOFS. Words of the plan area (chapter 5): the dropped write to a word that is the part's own (R94). Which offsets are
protected, what the memory path makes of a write there, how it is taken, then the obligation.
-/
namespace Sys2Proof.Machine

theorem exec_protectedWrite (m : Master) (off : BitVec 12) (v : Word) (s : State) :
    exec (.protectedWrite m off v) s = .next (planAreaCommand m off.toNat v s) := rfl

/-- R92, R94: the answer word, the two detail words, the status block and the report ring. -/
theorem protectedOffset_iff (off : Nat) :
    protectedOffset off = true ↔
      off = 1 ∨ off = 6 ∨ off = 7 ∨ (16 ≤ off ∧ off ≤ 117) ∨ (256 ≤ off ∧ off ≤ 511) := by
  simp [protectedOffset, or_assoc]

/-- R94: the protection comes before every look at the master and at the word's owner. -/
theorem planAreaWrite_protected {off : Nat} (hp : protectedOffset off = true) (v : Word) (w : UpWord) (s : State) :
    planAreaWrite off v w s = (s.foreignWrite 255 w, droppedTreatment) :=
  if_pos hp

theorem planAreaCommand_protected {s : State} {m : Master} {off : Nat} {v : Word} (ho : off ≤ 4095)
    (h : s.takes ⟨m, planAddr s.path.straps off, .write v⟩) (hp : protectedOffset off = true) :
    planAreaCommand m off v s =
      startTreatment ⟨m, planAddr s.path.straps off, .write v⟩ [] droppedTreatment
        ((s.looked ⟨m, planAddr s.path.straps off, .write v⟩).foreignWrite 255
          ⟨m, planAddr s.path.straps off, .write v⟩) := by
  unfold planAreaCommand
  rw [present_planArea h (region_planAddr _ _ _ ho), watchersOf_write]
  simp only [planAreaWord, planAreaWrite_protected hp]

/-- Settles O23: the offset is protected, so all that the word does past AW's look is to ask for its report; the drop's
frame (`dropped_of`) keeps the rest, memory included. -/
theorem protectedWriteDropped : Obligations.ProtectedWriteDropped := by
  intro s m off v w ht hoff
  have hp : protectedOffset off.toNat = true := (protectedOffset_iff _).2 hoff
  have ho : off.toNat ≤ 4095 := Nat.le_of_lt_succ off.isLt
  refine ⟨_, exec_protectedWrite m off v s, ?_⟩
  rw [planAreaCommand_protected ho ht hp]
  refine ⟨?report, ?drop⟩
  case report => exact (reported_foreignWrite _ _ _).startTreatment_dropped _
  case drop => exact dropped_of _ _ _ _ _ _ (KeepsAllBut.refl _).foreignWrite

end Sys2Proof.Machine
end

section
/-!
PROOFS. The checks of a plan's words (chapter 6): the header is checked first, and its first failing word is the plan's
offending word (R104). What a list of checks answers, what the header's answers, where the failures of the three tables
lie, then the obligation.
-/
namespace Sys2Proof.Machine

/-! ### The first failure of a list of checks (R113) -/

theorem firstFailure_nil : firstFailure [] = none := rfl

theorem firstFailure_cons (o : Nat) (ok : Bool) (l : List (Nat × Bool)) :
    firstFailure ((o, ok) :: l) = if ok = true then firstFailure l else some o := by
  cases ok <;> rfl

theorem mem_of_firstFailure {l : List (Nat × Bool)} {o : Nat} (h : firstFailure l = some o) : (o, false) ∈ l := by
  unfold firstFailure at h
  obtain ⟨⟨k, ok⟩, hfind, rfl⟩ := Option.map_eq_some_iff.1 h
  have hfails : ok = false := by simpa using List.find?_some hfind
  exact hfails ▸ List.mem_of_find?_eq_some hfind

theorem le_of_firstFailure {l : List (Nat × Bool)} {o b : Nat} (hl : ∀ c ∈ l, b ≤ c.1) (h : firstFailure l = some o) :
    b ≤ o :=
  hl _ (mem_of_firstFailure h)

theorem le_of_firstOf {f : Nat → Option Nat} {n o b : Nat} (hf : ∀ i o, f i = some o → b ≤ o)
    (h : firstOf f n = some o) : b ≤ o := by
  obtain ⟨i, -, hi⟩ := List.exists_of_findSome?_eq_some h
  exact hf i o hi

/-! ### The header words (R104) -/

/-- R104: the five frame lengths. -/
theorem frameLen_allowed_iff (p : Plan) :
    [16, 32, 64, 128, 256].contains p.frameLen = true ↔
      p.word 1025 = 16 ∨ p.word 1025 = 32 ∨ p.word 1025 = 64 ∨ p.word 1025 = 128 ∨ p.word 1025 = 256 := by
  simp [Plan.frameLen, Plan.num, ← BitVec.toNat_inj]

/-- R104: a run of `n` words ends within the 67,108,864 addresses. -/
theorem lastWord_le_iff (base n : Nat) : base + n - 1 ≤ 67108863 ↔ base + n ≤ 67108864 := by omega

/-- R104: the header is checked word by word in order, in the terms of the manual. -/
theorem firstFailure_headerChecks (p : Plan) :
    firstFailure (headerChecks p) =
      if p.word 1025 = 16 ∨ p.word 1025 = 32 ∨ p.word 1025 = 64 ∨ p.word 1025 = 128 ∨ p.word 1025 = 256 then
        if 1 ≤ p.lineCount ∧ p.lineCount ≤ 24 then
          if 1 ≤ p.areaCount ∧ p.areaCount ≤ 8 then
            if 1 ≤ p.zoneCount ∧ p.zoneCount ≤ 48 then
              if p.tapBase + p.zoneCount * p.frameLen - 1 ≤ 67108863 then
                if p.zoneBase + p.zoneCount * (2 * p.frameLen) - 1 ≤ 67108863 then none else some 1030
              else some 1029
            else some 1028
          else some 1027
        else some 1026
      else some 1025 := by
  simp only [headerChecks, firstFailure_cons, firstFailure_nil, frameLen_allowed_iff, lastWord_le_iff,
    decide_eq_true_eq]

theorem fieldFailure_of_header {p : Plan} {o : Nat} (h : firstFailure (headerChecks p) = some o) :
    fieldFailure p = some o := by
  simp only [fieldFailure, h]

/-! ### Where the failures of the tables lie (6.1) -/

theorem lineFailure_le {p : Plan} {i o : Nat} (h : firstFailure (lineChecks p i) = some o) : lineOff i 0 ≤ o :=
  le_of_firstFailure (by simp [lineChecks, lineOff]) h

theorem areaFailure_le {p : Plan} {a o : Nat} (h : areaFailure p a = some o) : areaOff a 0 ≤ o := by
  unfold areaFailure at h
  split at h
  case isTrue =>
    refine le_of_firstFailure (fun c hc => ?_) h
    simp only [areaFieldChecks, List.mem_append, List.mem_map, List.mem_cons, List.not_mem_nil, or_false] at hc
    obtain ⟨j, -, rfl⟩ | rfl | rfl | rfl | rfl | rfl := hc <;> simp [candidateCheck, areaOff]
  case isFalse => exact (Option.some.inj h).le

theorem zoneFailure_le {p : Plan} {z o : Nat} (h : zoneFailure p z = some o) : zoneOff z 0 ≤ o := by
  unfold zoneFailure at h
  split at h
  case isTrue => exact (Option.some.inj h).le
  case isFalse =>
    split at h
    case isTrue =>
      have ho : zoneOff z 1 = o := Option.some.inj h
      simp [← ho, zoneOff]
    case isFalse =>
      refine le_of_firstFailure (fun c hc => ?_) h
      simp only [zoneFieldChecks, List.mem_append, List.mem_map, List.mem_cons, List.not_mem_nil, or_false] at hc
      obtain (rfl | rfl) | ⟨i, -, rfl⟩ := hc <;> simp [zoneOff]

/-- R104: with a good header, what fails is a word of the three tables, which begin at 1031. -/
theorem tableFailure_le {p : Plan} {o : Nat} (hheader : firstFailure (headerChecks p) = none)
    (h : fieldFailure p = some o) : 1031 ≤ o := by
  simp only [fieldFailure, hheader] at h
  split at h
  case h_1 k hline =>
    obtain rfl : k = o := Option.some.inj h
    exact le_of_firstOf (fun i k hk => le_trans (by simp [lineOff]) (lineFailure_le hk)) hline
  case h_2 =>
    split at h
    case h_1 k harea =>
      obtain rfl : k = o := Option.some.inj h
      exact le_of_firstOf (fun a k hk => le_trans (by simp [areaOff]; omega) (areaFailure_le hk)) harea
    case h_2 => exact le_of_firstOf (fun z k hk => le_trans (by simp [zoneOff]; omega) (zoneFailure_le hk)) h

/-! ### The obligation -/

/-- Settles O28: each clause reads one branch of the header's checks (`firstFailure_headerChecks`); past them all only a
table's word can fail (`tableFailure_le`). -/
theorem headerCheckedFirst : Obligations.HeaderCheckedFirst := by
  intro p F okF okL okA okZ zones okTap okZone
  have frame := firstFailure_headerChecks p
  have lines (hF : okF) := frame.trans (if_pos hF)
  have areas (hF : okF) (hL : okL) := (lines hF).trans (if_pos hL)
  have zoneCount (hF : okF) (hL : okL) (hA : okA) := (areas hF hL).trans (if_pos hA)
  have tap (hF : okF) (hL : okL) (hA : okA) (hZ : okZ) := (zoneCount hF hL hA).trans (if_pos hZ)
  have buffers (hF : okF) (hL : okL) (hA : okA) (hZ : okZ) (hT : okTap) := (tap hF hL hA hZ).trans (if_pos hT)
  refine ⟨fun hF => ?frame, fun hF hL => ?lines, fun hF hL hA => ?areas, fun hF hL hA hZ => ?zoneCount,
    fun hF hL hA hZ hT => ?tap, fun hF hL hA hZ hT hB => ?buffers, fun hF hL hA hZ hT hB o => ?tables⟩
  case frame => exact fieldFailure_of_header (frame.trans (if_neg hF))
  case lines => exact fieldFailure_of_header ((lines hF).trans (if_neg hL))
  case areas => exact fieldFailure_of_header ((areas hF hL).trans (if_neg hA))
  case zoneCount => exact fieldFailure_of_header ((zoneCount hF hL hA).trans (if_neg hZ))
  case tap => exact fieldFailure_of_header ((tap hF hL hA hZ).trans (if_neg hT))
  case buffers => exact fieldFailure_of_header ((buffers hF hL hA hZ hT).trans (if_neg hB))
  case tables => exact tableFailure_le ((buffers hF hL hA hZ hT).trans (if_pos hB))

end Sys2Proof.Machine
end

section
/-!
PROOFS. What every step keeps. A step takes the command at the front of the queue (O54), and every command answers a next
state (O55); so an invariant holds through every step once every command keeps it. First memory (O56): its canonical form.
-/
namespace Sys2Proof.Machine

-- one theorem after another, as in the tests: side by side they take more threads than the memory limit allows
set_option Elab.async false

/-! ### Steps and commands -/

theorem step_cons {s : State} {c : Instr} {rest : List Instr} (h : s.pending = c :: rest) :
    step s = exec c { s with pending := rest } := by
  simp only [step, h]

theorem step_nil {s : State} (h : s.pending = []) : step s = .next s := by
  simp only [step, h]

/-- Settles O54, by the two branches of `step`. -/
theorem stepTakesTheFrontCommand : Obligations.StepTakesTheFrontCommand :=
  ⟨fun _ _ _ => step_cons rfl, fun _ h => step_nil h⟩

theorem exec_resetEnd (straps : BitVec 6) (y : Bool) (s : State) :
    exec (.resetEnd straps y) s = .next (endReset straps y s) := rfl

/-- The seven things a command can be: a reset, its end, a word presented, an event that arrives, a grant of the port, the
end of an access. -/
theorem exec_cases (c : Instr) (s : State) :
    (∃ cause, exec c s = .next (takeReset cause s)) ∨
    (∃ straps y, c = .resetEnd straps y ∧ exec c s = .next (endReset straps y s)) ∨
    (∃ w, exec c s = .next (presentWord w s)) ∨
    (∃ e, (∀ x, e ≠ .ownWritten x) ∧ exec c s = .next (arrive e s)) ∨
    exec c s = .next (portGrant s) ∨
    exec c s = .next (upstreamComplete s) ∨
    (∃ row, exec c s = .next (ownComplete row s)) := by
  cases c
  case powerOnReset => exact .inl ⟨_, rfl⟩
  case resetPinAsserted => exact .inl ⟨_, rfl⟩
  case resetEnd straps y => exact .inr (.inl ⟨straps, y, rfl, rfl⟩)
  case portGrant => exact .inr (.inr (.inr (.inr (.inl rfl))))
  case upstreamAccessComplete => exact .inr (.inr (.inr (.inr (.inr (.inl rfl)))))
  case planReadComplete => exact .inr (.inr (.inr (.inr (.inr (.inr ⟨_, rfl⟩)))))
  case answerWriteComplete => exact .inr (.inr (.inr (.inr (.inr (.inr ⟨_, rfl⟩)))))
  case headWriteComplete => exact .inr (.inr (.inr (.inr (.inr (.inr ⟨_, rfl⟩)))))
  case statusWriteComplete => exact .inr (.inr (.inr (.inr (.inr (.inr ⟨_, rfl⟩)))))
  case imageWriteComplete => exact .inr (.inr (.inr (.inr (.inr (.inr ⟨_, rfl⟩)))))
  case startUpCheck => exact .inr (.inr (.inr (.inl ⟨_, by simp, rfl⟩)))
  case endOfChecks => exact .inr (.inr (.inr (.inl ⟨_, by simp, rfl⟩)))
  case entryProgrammingCompletion => exact .inr (.inr (.inr (.inl ⟨_, by simp, rfl⟩)))
  case checksumProgrammingCompletion => exact .inr (.inr (.inr (.inl ⟨_, by simp, rfl⟩)))
  case yieldAssertion => exact .inr (.inr (.inr (.inl ⟨_, by simp, rfl⟩)))
  case yieldDeassertion => exact .inr (.inr (.inr (.inl ⟨_, by simp, rfl⟩)))
  all_goals exact .inr (.inr (.inl ⟨_, rfl⟩))

/-- What every command keeps, whatever waits in the queue, every step keeps. -/
theorem step_keeps {P : State → Prop} (hq : ∀ (s : State) (l : List Instr), P s → P { s with pending := l })
    (hexec : ∀ (c : Instr) (s t : State), P s → exec c s = .next t → P t) {s t : State} (h : P s)
    (hs : step s = .next t) : P t := by
  cases hp : s.pending with
  | nil =>
    rw [step_nil hp] at hs
    obtain rfl : s = t := by simpa using hs
    exact h
  | cons c rest =>
    rw [step_cons hp] at hs
    exact hexec c _ t (hq s rest h) hs

/-- What each of the seven things a command can be keeps, every command keeps. -/
theorem exec_keeps {P : State → Prop} {s t : State} {c : Instr} (h : exec c s = .next t)
    (hreset : ∀ cause, P (takeReset cause s)) (hend : ∀ straps y, P (endReset straps y s))
    (hword : ∀ w, P (presentWord w s)) (hevent : ∀ e, (∀ x, e ≠ .ownWritten x) → P (arrive e s))
    (hgrant : P (portGrant s)) (hup : P (upstreamComplete s)) (hown : ∀ row, P (ownComplete row s)) : P t := by
  have key : ∀ u, exec c s = .next u → P u → P t := fun u hu hP => by
    obtain rfl : u = t := by simpa using hu.symm.trans h
    exact hP
  rcases exec_cases c s with ⟨cause, e⟩ | ⟨straps, y, -, e⟩ | ⟨w, e⟩ | ⟨e', he, e⟩ | e | e | ⟨row, e⟩
  · exact key _ e (hreset cause)
  · exact key _ e (hend straps y)
  · exact key _ e (hword w)
  · exact key _ e (hevent e' he)
  · exact key _ e hgrant
  · exact key _ e hup
  · exact key _ e (hown row)

/-! ### A reset and its end -/

/-- What the end of a reset touches. -/
def resetEndParts : List Part := [.resetHeld, .straps, .yieldLevel, .checkPending] ++ statusParts

theorem keeps_endReset (straps : BitVec 6) (y : Bool) (s : State) :
    KeepsAllBut resetEndParts s (endReset straps y s) := by
  unfold endReset
  split
  · refine KeepsAllBut.chooseWork ?_
    intro q hq
    cases q <;> first | rfl | exact absurd (by decide) hq
  · exact .refl s

/-- Settles O55: a reset and its end leave the queue, and every other command does by its frame (`exec_running`). -/
theorem everyCommandAnswersNext : Obligations.EveryCommandAnswersNext := by
  intro c s
  by_cases hc : isRunning c = true
  · obtain ⟨t, he, ht⟩ := exec_running c s hc
    exact ⟨t, he, ht .pending (by decide)⟩
  · cases c
    case powerOnReset => exact ⟨_, rfl, rfl⟩
    case resetPinAsserted => exact ⟨_, rfl, rfl⟩
    case resetEnd straps y => exact ⟨_, rfl, keeps_endReset straps y s .pending (by decide)⟩
    all_goals exact absurd rfl hc

/-! ### Memory (O56) -/

theorem wf_upstreamMemory (a : Access) (s : State) (h : s.mem.wf) : (upstreamMemory a s).mem.wf := by
  cases a with
  | read _ => exact h
  | write b v => exact wf_memWrite s b v h

theorem wf_ownMemory (x : OwnAccess) (s : State) (h : s.mem.wf) : (ownMemory x s).mem.wf := by
  unfold ownMemory
  split
  · exact h
  · exact wf_memWrite s _ _ h

theorem wf_grantedMemory (s : State) (h : s.mem.wf) : (grantedMemory s).mem.wf := by
  unfold grantedMemory
  split
  · exact h
  · exact wf_upstreamMemory _ s h
  · exact wf_ownMemory _ s h

/-- The taking of words and events leaves memory alone, so it keeps its form. -/
theorem KeepsAllBut.wf {c : List Part} {s t : State} (h : KeepsAllBut c s t) (hc : Part.mem ∉ c) (hm : s.mem.wf) :
    t.mem.wf := by
  have e : t.mem = s.mem := h .mem hc
  rwa [e]

theorem wf_portGrant (s : State) (h : s.mem.wf) : (portGrant s).mem.wf := by
  unfold portGrant
  split
  · exact h
  · split
    · exact h
    · unfold grantUpstream
      split
      · exact h
      · split <;> exact h
    · unfold grantOwn
      split
      · exact h
      · unfold serve
        split
        · exact h
        · dsimp only
          split
          · exact h
          · exact wf_ownMemory _ _ h

theorem wf_upstreamComplete (s : State) (h : s.mem.wf) : (upstreamComplete s).mem.wf := by
  unfold upstreamComplete
  split
  case h_1 a _ =>
    have hm : (upstreamMemory a (freePort s)).mem.wf := wf_upstreamMemory a _ h
    unfold upstreamDone
    dsimp only
    split
    · exact hm
    · split
      · unfold completeInHand
        have hsat (z : Option (Fin 48)) (u : State) : KeepsAllBut takeParts u (countSaturation z u) := by
          cases z with
          | none => exact .refl _
          | some z => exact (KeepsAllBut.refl _).teSaturate
        refine KeepsAllBut.wf (((KeepsAllBut.refl _).takes ((hsat _ _).finishWord _ _ _)).afterWord) (by decide) hm
      · exact hm
  · exact h
  · exact h

theorem wf_ownComplete (row : OwnCompletion) (s : State) (h : s.mem.wf) : (ownComplete row s).mem.wf := by
  unfold ownComplete
  split
  · split
    · exact KeepsAllBut.wf ((KeepsAllBut.refl _).deliver _) (by decide) (wf_ownMemory _ s h)
    · exact h
  · exact h
  · exact h

/-- Settles O56: the port alone writes memory, and a write keeps its form (`wf_write`). -/
theorem memoryStaysCanonical : Obligations.MemoryStaysCanonical := by
  intro s t h
  refine step_keeps (P := fun u => u.mem.wf) (fun _ _ h => h) (fun c u v hu hv => ?_) h
  refine exec_keeps (P := fun x => x.mem.wf) hv (fun cause => wf_grantedMemory u hu) (fun straps y => ?_) (fun w => ?_)
    (fun e _ => ?_) (wf_portGrant u hu) (wf_upstreamComplete u hu) (fun row => wf_ownComplete row u hu)
  · exact (keeps_endReset straps y u).wf (by decide) hu
  · exact ((KeepsAllBut.refl u).presentWord w).wf (by decide) hu
  · exact ((KeepsAllBut.refl u).arrive e).wf (by decide) hu

end Sys2Proof.Machine
end

section
/-!
PROOFS. What the blocks' work keeps (O57, O58). `KeptByWork P` says that P outlives the few operations the work is made of:
a record replaced, a store written, a status change, a request, an access issued, the tail moved, the word in hand
replaced. Everything that takes a word or an event is made of these, so it keeps P; only the ends of RW's own writes are
left over, which each invariant treats by itself.
-/
namespace Sys2Proof.Machine

-- one theorem after another, as in the tests: side by side they take more threads than the memory limit allows
set_option Elab.async false

/-- A predicate that outlives every operation the taking of words and events is made of. -/
structure KeptByWork (P : State → Prop) : Prop where
  record : ∀ {s t : State}, P s → t.writer = s.writer → t.path = s.path → t.store = s.store → P t
  store : ∀ {s : State} (x : SafetyStore), P s → (SealOk s → SealOk (s.setStore x)) → P (s.setStore x)
  statusChanges : ∀ {s : State} (l : List Nat), (∀ o ∈ l, 16 ≤ o ∧ o ≤ 117) → P s → P (s.statusChanges l)
  request : ∀ {s : State} (k : ReportKind) (n : Nat) (a b : Word), P s → P (s.request k n a b)
  issue : ∀ {s : State} (c : Client) (l : List OwnAccess), c ≠ .rw → (∀ x ∈ l, x.client = c) → P s → P (s.issue c l)
  tail : ∀ {s : State} (v : Word), P s → P (rwTail v s)
  hand : ∀ {s : State} (x : Option InHand) (y : Option Completed), P s →
    P (s.setPath { s.path with inHand := x, lastDone := y })

/-! ### Where the status words of records lie (11.5) -/

theorem areaOffset_range (a : Fin 8) : 16 ≤ areaOffset a ∧ areaOffset a ≤ 117 := by
  unfold areaOffset; omega

theorem lineOffset_range (l : Fin 24) : 16 ≤ lineOffset l ∧ lineOffset l ≤ 117 := by
  unfold lineOffset; omega

theorem zoneOffset_range (z : Fin 48) : 16 ≤ zoneOffset z ∧ zoneOffset z ≤ 117 := by
  unfold zoneOffset; omega

theorem unitOffsets_range (u : Fin 4) : ∀ o ∈ unitOffsets u, 16 ≤ o ∧ o ≤ 117 := by
  intro o ho
  simp only [unitOffsets, List.mem_range'_1] at ho
  omega

theorem recordOffsets_range (p : Plan) : ∀ o ∈ recordOffsets p, 16 ≤ o ∧ o ≤ 117 := by
  intro o ho
  simp only [recordOffsets, List.mem_append, List.mem_map] at ho
  rcases ho with (⟨a, -, rfl⟩ | ⟨l, -, rfl⟩) | ⟨z, -, rfl⟩
  · exact areaOffset_range a
  · exact lineOffset_range l
  · exact zoneOffset_range z

namespace KeptByWork

variable {P : State → Prop} {s : State}

/-- A record of lines, areas, zones, units, PL or CU replaced. -/
theorem replaced {t : State} (hP : KeptByWork P) (h : P s) (hw : t.writer = s.writer := by rfl)
    (hp : t.path = s.path := by rfl) (hs : t.store = s.store := by rfl) : P t := hP.record h hw hp hs

/-- A store whose words and condition stand is sealed as before. -/
theorem keepStore {x : SafetyStore} (hP : KeptByWork P) (h : P s) (hw : x.words = s.store.words := by rfl)
    (hc : x.cond = s.store.cond := by rfl) : P (s.setStore x) :=
  hP.store x h fun hseal hv => by
    have hsum := hseal (hc ▸ hv)
    unfold SafetyStore.entrySum SafetyStore.checksum at hsum ⊢
    simpa [hw] using hsum

theorem change (hP : KeptByWork P) {off : Nat} (h : P s) (hr : 16 ≤ off ∧ off ≤ 117 := by decide) :
    P (s.statusChange off) :=
  hP.statusChanges [off] (fun o ho => by rw [List.mem_singleton.1 ho]; exact hr) h

/-! ### Taps and areas (chapters 2 and 3) -/

theorem teNotice (hP : KeptByWork P) (z : Fin 48) (d : Nat) (h : P s) : P (teNotice z d s) := by
  unfold Machine.teNotice
  dsimp only
  split
  · exact hP.replaced h
  · exact hP.change (hP.replaced h) (zoneOffset_range z)

theorem teMark (hP : KeptByWork P) (p : Plan) (h : P s) : P (teMark p s) := by
  refine forEach_keeps P _ (fun z _ t ht => ?_) h
  unfold teMarkZone
  dsimp only
  split
  · exact hP.change (hP.replaced ht) (zoneOffset_range z)
  · exact hP.replaced ht

theorem teBoundFailure (hP : KeptByWork P) (z : Fin 48) (d : Nat) (x : Int) (b : Bound) (h : P s) :
    P (teBoundFailure z d x b s) := by
  unfold Machine.teBoundFailure
  dsimp only
  split
  · exact h
  · split
    · exact h
    · exact hP.request _ _ _ _ (hP.replaced h)
  · split
    · exact h
    · exact hP.request _ _ _ _ (hP.replaced h)

theorem seSwitch (hP : KeptByWork P) (p : Plan) (a : Fin 8) (r : AreaRec) (x : Option (Fin 8)) (h : P s) :
    P (seSwitch p a r x s) := by
  have h1 : P (((s.setArea a { r with elected := x, dwell := 0, quiet := 0 }).request .elected a.val
      (word (sourceCode r.elected)) (word (sourceCode x))).statusChange (areaOffset a)) :=
    hP.change (hP.request _ _ _ _ (hP.replaced h)) (areaOffset_range a)
  unfold Machine.seSwitch
  cases x with
  | none => exact h1
  | some i => exact forEach_keeps P _ (fun _ _ _ ht => hP.teNotice _ _ ht) h1

theorem seDecideAndEmpty (hP : KeptByWork P) (p : Plan) (a : Fin 8) (h : P s) : P (seDecideAndEmpty p a s) := by
  have h1 : P (seDecide p a s) := by
    unfold seDecide
    dsimp only
    split
    · exact hP.replaced h
    · split
      · exact hP.replaced h
      · exact hP.seSwitch _ _ _ _ h
  exact hP.replaced h1

theorem seTake (hP : KeptByWork P) (p : Plan) (a i : Fin 8) (m : Word) (l : Level) (h : P s) :
    P (seTake p a i m l s) := by
  unfold Machine.seTake
  split
  · dsimp only
    have h1 : P (if (s.area a).closedBy m then Machine.seDecideAndEmpty p a s else s) := by
      split
      · exact hP.seDecideAndEmpty p a h
      · exact h
    generalize (if (s.area a).closedBy m then Machine.seDecideAndEmpty p a s else s) = u at h1 ⊢
    split
    · exact hP.seDecideAndEmpty p a (hP.replaced h1)
    · exact hP.replaced h1
  · exact h

/-! ### Lines (chapter 1) -/

theorem ltMark (hP : KeptByWork P) (p : Plan) (m : Word) (h : P s) : P (ltMark p m s) := by
  have mark (l : Fin 24) (t : State) (ht : P t) : P (ltMarkLine p l t) := by
    unfold ltMarkLine
    dsimp only
    split
    · exact ht
    · exact hP.change (hP.replaced ht) (lineOffset_range l)
    · exact hP.replaced ht
    · split
      · split
        · exact hP.change (hP.request _ _ _ _ (hP.replaced ht)) (lineOffset_range l)
        · exact hP.replaced ht
      · exact hP.replaced ht
  have reports (l : Fin 24) (t : State) (ht : P t) : P (ltReports p m l t) := by
    unfold ltReports
    split
    · refine forEach_keeps P _ (fun a _ u hu => ?_) ht
      unfold ltReportTo
      split
      · exact hu
      · exact hP.seTake _ _ _ _ _ hu
    · exact ht
  exact forEach_keeps P _ (fun _ _ _ ht => hP.replaced ht) (forEach_keeps P _ (fun l _ t ht => reports l t ht)
    (forEach_keeps P _ (fun l _ t ht => mark l t ht) h))

theorem ltJump (hP : KeptByWork P) (l : Fin 24) (pos : Word) (n : Nat) (r : LineRec) (h : P s) :
    P (ltJump l pos n r s) := by
  unfold Machine.ltJump
  dsimp only
  split
  · exact hP.replaced h
  all_goals exact hP.change (hP.request _ _ _ _ (hP.replaced h)) (lineOffset_range l)

theorem ltResync (hP : KeptByWork P) (l : Fin 24) (o e : Nat) (r : LineRec) (h : P s) : P (ltResync l o e r s) := by
  have h1 : P (s.setLine l (r.resynced o)) := hP.replaced h
  have h2 : P (if r.resyncReported then s.setLine l (r.resynced o)
      else (s.setLine l (r.resynced o)).request .lineResync l.val (word o) (word e)) := by
    split
    · exact h1
    · exact hP.request _ _ _ _ h1
  unfold Machine.ltResync
  dsimp only
  generalize (if r.resyncReported then s.setLine l (r.resynced o)
    else (s.setLine l (r.resynced o)).request .lineResync l.val (word o) (word e)) = u at h2 ⊢
  split
  · exact hP.change h2 (lineOffset_range l)
  · exact h2

theorem ltWord (hP : KeptByWork P) (p : Plan) (l : Fin 24) (o : Nat) (w : UpWord) (h : P s) : P (ltWord p l o w s).1 := by
  have accept (c : Int) (r : LineRec) : P (ltAccept p l c r s) := by
    unfold ltAccept
    dsimp only
    split
    · exact hP.replaced h
    · exact hP.ltJump _ _ _ _ h
  unfold Machine.ltWord
  split
  · exact h
  · split
    · unfold ltWriterWrite
      dsimp only
      split
      · exact hP.change (hP.replaced h) (lineOffset_range l)
      all_goals
        split
        · exact accept _ _
        · exact hP.ltResync _ _ _ _ h
    · unfold ltForeignWrite
      split
      · exact h
      · exact hP.request _ _ _ _ (hP.replaced h)

theorem ltClear (hP : KeptByWork P) (l : Fin 24) (h : P s) : P (ltClear l s) := by
  unfold Machine.ltClear
  dsimp only
  split
  · exact hP.change (hP.replaced h) (lineOffset_range l)
  · exact h

/-! ### Zone outputs (chapter 4) -/

theorem zcLapse (hP : KeptByWork P) (z : Fin 48) (h : P s) : P (zcLapse z s) := by
  unfold Machine.zcLapse
  dsimp only
  split
  · exact hP.replaced h
  · split
    · split
      · exact hP.replaced h
      · exact hP.change (hP.replaced h) (zoneOffset_range z)
    · exact hP.change (hP.request _ _ _ _ (hP.replaced h)) (zoneOffset_range z)

theorem zcMark (hP : KeptByWork P) (p : Plan) (h : P s) : P (zcMark p s) := by
  refine forEach_keeps P _ (fun z _ t ht => ?_) h
  unfold zcMarkZone
  split
  · unfold zcFed
    dsimp only
    split
    · exact hP.replaced ht
    · exact hP.change (hP.replaced ht) (zoneOffset_range z)
    · exact hP.change (hP.replaced ht) (zoneOffset_range z)
    · exact hP.change (hP.request _ _ _ _ (hP.replaced ht)) (zoneOffset_range z)
  · unfold zcUnfed
    dsimp only
    split
    · exact hP.replaced ht
    · exact hP.zcLapse z ht
    · exact hP.zcLapse z ht
    · split <;> exact hP.replaced ht

theorem zcWord (hP : KeptByWork P) (p : Plan) (z : Fin 48) (half : Fin 2) (w : UpWord) (h : P s) :
    P (zcWord p z half w s).1 := by
  unfold Machine.zcWord
  split
  · exact h
  · exact h
  · exact h
  · exact h
  · exact hP.replaced h
  all_goals exact hP.request _ _ _ _ h

theorem zcMute (hP : KeptByWork P) (b : Bool) (z : Fin 48) (h : P s) : P (zcMute b z s) := by
  unfold Machine.zcMute
  split
  · exact h
  · exact hP.change (hP.replaced h) (zoneOffset_range z)

theorem zcProof (hP : KeptByWork P) (b : Bool) (z : Fin 48) (h : P s) : P (zcProof b z s) := by
  unfold Machine.zcProof
  split
  · exact h
  · exact hP.change (hP.replaced h) (zoneOffset_range z)

theorem zcEdge (hP : KeptByWork P) (b : Bool) (h : P s) : P (zcEdge b s) := by
  have zones : P (zcEdgeZones b { s with yieldLevel := b }) := by
    unfold zcEdgeZones
    split
    · exact hP.replaced h
    · refine forEach_keeps P _ (fun z _ t ht => ?_) (hP.replaced h)
      split
      · unfold zcAssertZone
        dsimp only
        split
        · exact ht
        · exact hP.change (hP.replaced ht) (zoneOffset_range z)
      · unfold zcDeassertZone
        dsimp only
        split
        · exact hP.change (hP.replaced ht) (zoneOffset_range z)
        · exact ht
  unfold Machine.zcEdge
  split
  · exact h
  · dsimp only
    split
    · exact hP.change zones
    · exact hP.request _ _ _ _ (hP.change zones)

theorem zcEntryChange (hP : KeptByWork P) (old : SafetyStore) (z : Fin 48) (h : P s) : P (zcEntryChange old z s) := by
  unfold Machine.zcEntryChange
  dsimp only
  split
  · exact hP.replaced h
  · exact hP.change (hP.replaced h) (zoneOffset_range z)

/-! ### The safety store (chapter 10) -/

theorem ssIssueImage (hP : KeptByWork P) (h : P s) : P (ssIssueImage s) := by
  unfold Machine.ssIssueImage
  split
  · exact hP.issue .ss _ (by decide) (fun x hx => by rw [List.mem_singleton.1 hx]; rfl) h
  · exact h

/-- The condition a check finds is VALID only where the sum agrees. -/
theorem seal_checkResult (t : SafetyStore) (h : t.checkResult = .valid) : t.entrySum = t.checksum := by
  unfold SafetyStore.checkResult at h
  split at h
  · assumption
  · cases h

theorem unsealed_ne_valid (c : StoreCond) : c.unsealed' ≠ .valid := by
  cases c <;> decide

theorem ssStartUpCheck (hP : KeptByWork P) (h : P s) : P (ssStartUpCheck s) := by
  unfold Machine.ssStartUpCheck
  split
  · exact hP.ssIssueImage (hP.change (hP.store _ h fun _ hv => seal_checkResult s.store hv))
  · exact h

theorem ssEntryCompletion (hP : KeptByWork P) (h : P s) : P (ssEntryCompletion s) := by
  unfold Machine.ssEntryCompletion
  split
  · exact h
  · split
    · rename_i i v _ _
      have h1 : P ((s.setStore { s.store.programmed i v with cond := s.store.cond.unsealed' }).statusChange 20) :=
        hP.change (hP.store _ h fun _ hv => absurd hv (unsealed_ne_valid _))
      unfold ssEntryProgrammed
      dsimp only
      refine hP.request _ _ _ _ ?_
      split
      · exact h1
      · unfold zcEntryChangeOf
        split
        · exact hP.zcEntryChange _ _ h1
        · exact h1
    · exact h

theorem ssChecksumCompletion (hP : KeptByWork P) (h : P s) : P (ssChecksumCompletion s) := by
  unfold Machine.ssChecksumCompletion
  split
  · exact h
  · split
    · exact h
    · rename_i i v _ _
      have h1 : P ((s.setStore { s.store.programmed i v with
          cond := (s.store.programmed i v).checkResult }).statusChange 20) :=
        hP.change (hP.store _ h fun _ hv => seal_checkResult (s.store.programmed i v) hv)
      unfold ssChecksumProgrammed
      dsimp only
      refine hP.request _ _ _ _ (hP.request _ _ _ _ ?_)
      split
      · exact h1
      · unfold zcAllEntriesChange
        split
        · exact h1
        · exact forEach_keeps P _ (fun _ _ _ ht => hP.zcEntryChange _ _ ht) h1

theorem ssPermitRequest (hP : KeptByWork P) (n : Word) (h : P s) : P (ssPermitRequest n s) := by
  unfold Machine.ssPermitRequest
  split
  · exact hP.request _ _ _ _ h
  · split
    · split
      · exact h
      · exact hP.change (hP.keepStore h)
    · dsimp only
      have h1 : P (ssRefuse .permitRange n (word (permitCode s.store.permit))
          (s.setStore { s.store with permit := none })) := hP.request _ _ _ _ (hP.keepStore h)
      split
      · exact hP.change h1
      · exact h1

theorem ssImageWord (hP : KeptByWork P) (i : Fin 193) (v : Word) (w : UpWord) (h : P s) :
    P (ssImageWord i v w s).1 := by
  unfold Machine.ssImageWord
  split
  · unfold ssProgramRequest
    split
    · exact hP.request _ _ _ _ h
    · split
      · exact hP.request _ _ _ _ h
      · split
        · exact hP.change (hP.keepStore h)
        · exact hP.change (hP.request _ _ _ _ (hP.keepStore h))
  all_goals exact hP.request _ _ _ _ h

/-! ### The address watch (chapter 8) -/

theorem awLook (hP : KeptByWork P) (w : UpWord) (h : P s) : P (awLook w s) := by
  refine forEach_keeps P _ (fun u _ t ht => ?_) h
  unfold awHit
  dsimp only
  split
  · exact hP.statusChanges _ (unitOffsets_range u) (hP.replaced ht)
  · exact hP.request _ _ _ _ (hP.statusChanges _ (unitOffsets_range u) (hP.replaced ht))

theorem awTurnOff (hP : KeptByWork P) (u : Fin 4) (h : P s) : P (awTurnOff u s) := by
  unfold Machine.awTurnOff
  dsimp only
  split
  · exact hP.statusChanges _ (unitOffsets_range u) (hP.replaced h)
  · exact h

theorem awCommand (hP : KeptByWork P) (o : Vector Word 4) (h : P s) : P (awCommand o s) := by
  unfold Machine.awCommand
  dsimp only
  split
  · exact h
  · unfold awSet
    dsimp only
    split
    · exact h
    · exact hP.statusChanges _ (unitOffsets_range _) (hP.replaced h)
  · exact hP.awTurnOff _ h
  · unfold awResetHits
    dsimp only
    split
    · exact h
    · exact hP.statusChanges _ (unitOffsets_range _) (hP.replaced h)

theorem awDisarm (hP : KeptByWork P) (h : P s) : P (awDisarm s) :=
  forEach_keeps P _ (fun _ _ _ ht => hP.awTurnOff _ ht) h

/-! ### The plan loader (chapter 6) -/

theorem plIssueRead (hP : KeptByWork P) (h : P s) : P (plIssueRead s) :=
  hP.issue .pl _ (by decide) (fun x hx => by rw [List.mem_singleton.1 hx]; rfl) (hP.replaced h)

theorem plLoad (hP : KeptByWork P) (h : P s) : P (plLoad s) := by
  refine hP.change ?_
  split
  · exact hP.replaced h
  · exact hP.plIssueRead (hP.replaced h)

theorem plReadDone (hP : KeptByWork P) (v : Word) (h : P s) : P (plReadDone v s) := by
  unfold Machine.plReadDone
  dsimp only
  split
  · split
    · exact hP.plIssueRead (hP.replaced h)
    · exact hP.replaced h
  · split
    · unfold plReceive
      dsimp only
      split
      · exact hP.plIssueRead (hP.replaced h)
      · exact hP.change (hP.replaced h)
    · exact h

theorem plReject (hP : KeptByWork P) (why : LoadOutcome) (a b : Word) (h : P s) : P (plReject why a b s) :=
  hP.change (hP.request _ _ _ _ (hP.replaced h))

/-- The status words of the device and the loader, marked at an installation and at DROP. -/
theorem changeDevice (hP : KeptByWork P) (h : P s) : P (s.statusChanges [16, 17]) :=
  hP.statusChanges _ (by decide) h

theorem plEndOfChecks (hP : KeptByWork P) (h : P s) : P (plEndOfChecks s) := by
  unfold Machine.plEndOfChecks
  split
  · dsimp only
    split
    · exact hP.plReject _ _ _ h
    · exact hP.plReject _ _ _ h
    · exact hP.plReject _ _ _ h
    · exact hP.plReject _ _ _ h
    · unfold plPass
      split
      · exact hP.statusChanges _ (recordOffsets_range _) (hP.changeDevice (hP.request _ _ _ _ (hP.replaced h)))
      · exact hP.change (hP.request _ _ _ _ (hP.replaced h))
  · exact h

theorem plMark (hP : KeptByWork P) (p : Plan) (h : P s) : P (plMark p s) := by
  unfold Machine.plMark
  split
  · split
    · exact h
    · rename_i q _
      have h1 : P (teSwap q (seSwap p q (plSwapPlans q s))) :=
        forEach_keeps P _ (fun _ _ _ ht => hP.replaced ht) (forEach_keeps P _ (fun _ _ _ ht => hP.replaced ht) (hP.replaced h))
      refine hP.change (hP.request _ _ _ _ (forEach_keeps P _ (fun z _ t ht => ?_) h1))
      unfold swapNotice
      split
      · exact ht
      · exact hP.teNotice _ _ ht
  · exact h

theorem plDrop (hP : KeptByWork P) (h : P s) : P (plDrop s) := by
  have h1 : P (plAbandon s) := by
    unfold plAbandon
    split
    · exact h
    · exact hP.request _ _ _ _ (hP.replaced h)
  have h2 : P ((droppedState (plAbandon s)).statusChanges [16, 17]) := hP.changeDevice (hP.replaced h1)
  unfold Machine.plDrop
  refine hP.statusChanges _ ?_ h2
  unfold liveRecordOffsets
  split
  · simp
  · exact recordOffsets_range _

/-! ### Commands (chapter 7) -/

theorem cuEndStartUp (hP : KeptByWork P) (h : P s) : P (cuEndStartUp s) := by
  unfold Machine.cuEndStartUp
  split
  · exact hP.change (hP.request _ _ _ _ (hP.replaced h))
  · exact h

theorem cuFrameMark (hP : KeptByWork P) (m : Word) (h : P s) : P (cuFrameMark m s) := by
  unfold Machine.cuFrameMark
  dsimp only
  split
  · exact hP.replaced h
  · exact hP.plMark _ (hP.zcMark _ (hP.ltMark _ _ (hP.teMark _ (hP.replaced h))))

theorem execute (hP : KeptByWork P) (c : Command) (o : Vector Word 4) (h : P s) : P (execute c o s) := by
  have device (d : Device) : P ((s.setDevice d).statusChange 16) := hP.change (hP.replaced h)
  have areas (f : Fin 8 → State → State) (hf : ∀ a t, f a t = (t.setArea a AreaRec.fresh).statusChange (areaOffset a))
      (l : List (Fin 8)) (d : Device) : P (forEach l f ((s.setDevice d).statusChange 16)) :=
    forEach_keeps P _ (fun a _ t ht => by rw [hf]; exact hP.change (hP.replaced ht) (areaOffset_range a)) (device d)
  unfold Machine.execute
  split
  case h_1 => exact hP.plLoad h
  case h_2 => exact hP.awCommand o h
  case h_3 => exact hP.plDrop h
  case h_4 => exact areas _ (fun _ _ => rfl) _ _
  case h_5 => exact hP.awDisarm (forEach_keeps P _ (fun _ _ _ ht => hP.teNotice _ _ ht) (areas _ (fun _ _ => rfl) _ _))
  case h_6 =>
    unfold sePin
    dsimp only
    split
    · exact hP.change (hP.replaced h) (areaOffset_range _)
    · exact hP.seSwitch _ _ _ _ h
  case h_7 =>
    unfold seFree
    split
    · exact hP.change (hP.replaced h) (areaOffset_range _)
    · exact h
  case h_8 =>
    unfold cuMute
    split
    · exact forEach_keeps P _ (fun _ _ _ ht => hP.zcMute _ _ ht) h
    · exact hP.zcMute _ _ h
  case h_9 => exact hP.zcProof _ _ h
  case h_10 =>
    unfold cuClear
    split
    · exact forEach_keeps P _ (fun _ _ _ ht => hP.ltClear _ ht) h
    · exact hP.ltClear _ h
  case h_11 => exact hP.replaced h
  all_goals exact h

theorem detailWrites_client (c : Command) (o : Vector Word 4) (s : State) :
    ∀ x ∈ detailWrites c o s, x.client = .cu := by
  cases c <;> simp [detailWrites, OwnAccess.client]

theorem cuPost (hP : KeptByWork P) (v : Word) (h : P s) : P (cuPost v s) := by
  unfold Machine.cuPost
  split
  · unfold cuTakePost
    dsimp only
    have h1 : P (s.setCommand { s.command with
        slot := .answering, latched := s.command.shadow, lastTag := some (postTag v) }) := hP.replaced h
    generalize s.setCommand { s.command with
      slot := .answering, latched := s.command.shadow, lastTag := some (postTag v) } = u at h1
    generalize postOutcome u (postCode v) u.command.latched = x
    unfold postEffects
    split
    · refine hP.issue .cu _ (by decide) (fun y hy => ?_) (hP.execute _ _ h1)
      rcases List.mem_append.1 hy with hy | hy
      · exact detailWrites_client _ _ _ y hy
      · rw [List.mem_singleton.1 hy]; rfl
    all_goals exact hP.issue .cu _ (by decide) (fun y hy => by rw [List.mem_singleton.1 hy]; rfl) h1
  · exact hP.request _ _ _ _ h

/-! ### Words and events (chapter 5) -/

theorem snoop (hP : KeptByWork P) (off : Nat) (v : Word) (h : P s) : P (snoop off v s) := by
  unfold Machine.snoop
  split
  · exact hP.cuPost v h
  · split
    · exact hP.replaced h
    · split
      · exact hP.cuFrameMark v h
      · split
        · exact hP.tail v h
        · split
          · exact hP.ssPermitRequest v h
          · split
            · unfold plPlanWrite
              split
              · exact hP.replaced h
              · exact h
            · exact h

theorem teRead (hP : KeptByWork P) (p : Plan) (z : Fin 48) (j : Nat) (h : P s) : P (teRead p z j s).1 := by
  unfold Machine.teRead
  dsimp only
  split
  · exact h
  · split
    · exact h
    · exact h
    · exact h
    · split
      · unfold teSteadyRead
        dsimp only
        split
        · exact h
        · dsimp only
          exact hP.teBoundFailure _ _ _ _ h
        · dsimp only
          exact hP.teBoundFailure _ _ _ _ h
      · unfold teGlidingRead
        dsimp only
        split
        · exact h
        · exact hP.teBoundFailure _ _ _ _ (hP.teBoundFailure _ _ _ _ h)

theorem ownerTreatment (hP : KeptByWork P) (w : UpWord) (h : P s) : P (ownerTreatment w s).1 := by
  unfold Machine.ownerTreatment withPlan
  split
  · unfold planAreaWord
    split
    · exact h
    · unfold planAreaWrite
      split
      · exact hP.request _ _ _ _ h
      · split
        · exact hP.ssImageWord _ _ _ h
        · split
          · exact hP.snoop _ _ h
          · exact h
  · split
    · exact h
    · unfold teWord
      split
      · exact hP.teRead _ _ _ h
      · exact hP.request _ _ _ _ h
  · split
    · exact h
    · exact hP.zcWord _ _ _ _ h
  · split
    · exact h
    · exact hP.ltWord _ _ _ _ h
  · exact h

theorem finishWord (hP : KeptByWork P) (w : UpWord) (l : List (Fin 4)) (x : Option Word) (h : P s) :
    P (finishWord w l x s) :=
  forEach_keeps P _ (fun u _ _ ht => hP.statusChanges _ (unitOffsets_range u) (hP.replaced ht)) (hP.hand none _ h)

theorem startTreatment (hP : KeptByWork P) (w : UpWord) (l : List (Fin 4)) (x : Treatment) (h : P s) :
    P (startTreatment w l x s) := by
  cases x with
  | access accesses form => exact hP.hand (some ⟨w, form, accesses, [], l⟩) s.path.lastDone h
  | complete answer => exact hP.finishWord w l answer h

theorem takeWord (hP : KeptByWork P) (w : UpWord) (h : P s) : P (takeWord w s) := by
  unfold Machine.takeWord
  split
  · exact hP.startTreatment _ _ _ h
  · dsimp only
    split
    · exact hP.finishWord _ _ _ (hP.awLook w h)
    · exact hP.startTreatment _ _ _ (hP.ownerTreatment w (hP.awLook w h))

/-- Every event but the end of one of RW's own writes. -/
theorem takeEvent (hP : KeptByWork P) (e : SlowEvent) (he : e.ofWriter = none) (h : P s) : P (takeEvent e s) := by
  cases e with
  | startUpCheck => exact hP.ssStartUpCheck h
  | endOfChecks => exact hP.plEndOfChecks h
  | entryProgrammed => exact hP.ssEntryCompletion h
  | checksumProgrammed => exact hP.ssChecksumCompletion h
  | yieldEdge level => exact hP.zcEdge level h
  | planWordRead v => exact hP.plReadDone v h
  | ownWritten x =>
    cases x with
    | planRead _ => exact h
    | detailWrite _ _ => exact h
    | answerWrite _ => exact hP.replaced h
    | entryWrite _ _ _ => exact h
    | headWrite _ => cases he
    | statusWrite _ _ => cases he
    | imageWrite i _ => exact hP.cuEndStartUp (hP.ssIssueImage (hP.keepStore h))

end KeptByWork

end Sys2Proof.Machine
end

section
/-!
PROOFS. The arbiter's count and the seal of the store (O58); then RW's queue, ring, one piece of work and dirty set (O57),
whose accesses outstanding are followed from the queue to the port, to the events that wait, to RW.
-/
namespace Sys2Proof.Machine

-- one theorem after another, as in the tests: side by side they take more threads than the memory limit allows
set_option Elab.async false

/-! ### What waits for the end of a word (R88) -/

/-- An event that is no end of an own write is none of RW's. -/
theorem ofWriter_none {e : SlowEvent} (he : ∀ x, e ≠ .ownWritten x) : e.ofWriter = none := by
  cases e with
  | ownWritten x => exact absurd rfl (he x)
  | _ => rfl

/-- A predicate that outlives the work, the waiting of words and events, and the taking of an event that waited. -/
structure KeptThrough (P : State → Prop) : Prop extends KeptByWork P where
  waiting : ∀ {s : State} (l : List UpWord), P s → P (s.setPath { s.path with waiting := l })
  hold : ∀ {s : State} (e : SlowEvent), e.ofWriter = none → (∀ x, e = .ownWritten x → hasCompletion x = true) → P s →
    P (s.setPath { s.path with held := s.path.held ++ [e] })
  heldEvent : ∀ {s : State} {e : SlowEvent} {rest : List SlowEvent}, s.path.held = e :: rest → P s →
    P (takeEvent e (s.setPath { s.path with held := rest }))

namespace KeptThrough

variable {P : State → Prop} {s : State}

theorem presentWord (hP : KeptThrough P) (w : UpWord) (h : P s) : P (presentWord w s) := by
  unfold Machine.presentWord
  split
  · exact h
  · split
    · exact hP.waiting _ h
    · exact hP.takeWord w h

theorem deliver (hP : KeptThrough P) (e : SlowEvent) (he : e.ofWriter = none)
    (hc : ∀ x, e = .ownWritten x → hasCompletion x = true) (h : P s) : P (deliver e s) := by
  unfold Machine.deliver
  split
  · exact hP.hold e he hc h
  · exact hP.takeEvent e he h

theorem arrive (hP : KeptThrough P) (e : SlowEvent) (he : ∀ x, e ≠ .ownWritten x) (h : P s) : P (arrive e s) := by
  unfold Machine.arrive
  split
  · exact h
  · exact hP.deliver e (ofWriter_none he) (fun x hx => absurd hx (he x)) h

theorem takeHeld (hP : KeptThrough P) (l : List SlowEvent) (hl : s.path.held = l) (h : P s) : P (takeHeld l s) := by
  induction l generalizing s with
  | nil => exact h
  | cons e rest ih => exact ih (takeEvent_waits e _).1 (hP.heldEvent hl h)

theorem takeWaiting (hP : KeptThrough P) (l : List UpWord) (h : P s) : P (takeWaiting l s) := by
  induction l generalizing s with
  | nil => exact hP.waiting [] h
  | cons w rest ih =>
    have h1 : P (takeWord w (s.setPath { s.path with waiting := rest })) := hP.takeWord w (hP.waiting rest h)
    unfold Machine.takeWaiting
    dsimp only
    split
    · exact h1
    · exact ih h1

/-- The last access of a word completes: its end is taken, and what waited for it. -/
theorem upstreamDone (hP : KeptThrough P) (a : Access) (h : P (upstreamMemory a (freePort s))) :
    P (upstreamDone a s) := by
  unfold Machine.upstreamDone
  dsimp only
  split
  · exact h
  · split
    · unfold completeInHand afterWord
      have counted (z : Option (Fin 48)) : P (countSaturation z (upstreamMemory a (freePort s))) := by
        cases z with
        | none => exact h
        | some z => exact hP.replaced h
      exact hP.takeWaiting _ (hP.takeHeld _ rfl (hP.finishWord _ _ _ (counted _)))
    · exact hP.hand _ _ h

end KeptThrough

/-! ### The seal of the store (R169) -/

theorem sealOk_congr {s t : State} (h : SealOk s) (hs : t.store = s.store) : SealOk t := by
  unfold SealOk
  rw [hs]
  exact h

theorem rwTail_store (v : Word) (s : State) : (rwTail v s).store = s.store := by
  unfold rwTail
  dsimp only
  split <;> rfl

theorem keptByWork_seal : KeptByWork SealOk where
  record h _ _ hs := sealOk_congr h hs
  store _ h hx := hx h
  statusChanges _ _ h := sealOk_congr h (statusChanges_store _ _)
  request _ _ _ _ h := sealOk_congr h (request_store _ _ _ _ _)
  issue _ _ _ _ h := h
  tail v h := sealOk_congr h (rwTail_store v _)
  hand _ _ h := h

theorem sealOk_takeEvent {s : State} (e : SlowEvent) (h : SealOk s) : SealOk (takeEvent e s) := by
  by_cases he : e.ofWriter = none
  · exact keptByWork_seal.takeEvent e he h
  · cases e with
    | ownWritten x =>
      cases x with
      | entryWrite _ _ _ => exact h
      | headWrite i => exact sealOk_congr h (by simp [takeEvent, ownWriteDone, rwHeadDone])
      | statusWrite off v => exact keptByWork_seal.cuEndStartUp (sealOk_congr h (by simp))
      | _ => exact absurd rfl he
    | _ => exact absurd rfl he

theorem keptThrough_seal : KeptThrough SealOk :=
  { keptByWork_seal with
    waiting := fun _ h => h
    hold := fun _ _ _ h => h
    heldEvent := fun _ h => sealOk_takeEvent _ h }

/-- A grant touches the path and memory alone. -/
theorem portGrant_keeps (s : State) : (portGrant s).store = s.store ∧ (portGrant s).writer = s.writer := by
  have own (x : OwnAccess) (t : State) : (ownMemory x t).store = t.store ∧ (ownMemory x t).writer = t.writer := by
    unfold ownMemory
    split <;> exact ⟨rfl, rfl⟩
  unfold portGrant
  split
  · exact ⟨rfl, rfl⟩
  · split
    · exact ⟨rfl, rfl⟩
    · unfold grantUpstream
      split
      · exact ⟨rfl, rfl⟩
      · split <;> exact ⟨rfl, rfl⟩
    · unfold grantOwn
      split
      · exact ⟨rfl, rfl⟩
      · unfold serve
        split
        · exact ⟨rfl, rfl⟩
        · dsimp only
          split
          · exact ⟨rfl, rfl⟩
          · exact own _ _

theorem sealOk_ownComplete (row : OwnCompletion) (s : State) (h : SealOk s) : SealOk (ownComplete row s) := by
  unfold ownComplete
  split
  · rename_i x _
    split
    · have h1 : SealOk (freePort (ownMemory x s)) := by
        unfold ownMemory
        split <;> exact h
      unfold deliver
      split
      · exact h1
      · exact sealOk_takeEvent _ h1
    · exact h
  · exact h
  · exact h

theorem sealOk_upstreamComplete (s : State) (h : SealOk s) : SealOk (upstreamComplete s) := by
  unfold upstreamComplete
  split
  · rename_i a _
    exact keptThrough_seal.upstreamDone a (by cases a <;> exact h)
  · exact h
  · exact h

theorem sealOk_exec {c : Instr} {s t : State} (h : SealOk s) (he : exec c s = .next t) : SealOk t := by
  refine exec_keeps he (fun cause hv => ?_) (fun straps y => ?_) (fun w => keptThrough_seal.presentWord w h)
    (fun e hx => keptThrough_seal.arrive e hx h) (sealOk_congr h (portGrant_keeps s).1) (sealOk_upstreamComplete s h)
    (fun row => sealOk_ownComplete row s h)
  · cases hv
  · unfold endReset
    split
    · exact sealOk_congr (s := s.setStore { s.store with checkPending := true }) (keptByWork_seal.keepStore h) (by simp)
    · exact h

/-! ### The arbiter's count (R95) -/

theorem arbitrate_count_le {u o : Bool} {n m : Nat} {k : Claimant} (hn : n ≤ 8)
    (h : arbitrate u o n = some (k, m)) : m ≤ 8 := by
  cases u <;> cases o <;> simp only [arbitrate, Option.some.injEq, Prod.mk.injEq, reduceCtorEq] at h
  · omega
  · omega
  · split at h <;> simp only [Option.some.injEq, Prod.mk.injEq] at h <;> omega

theorem countOk_portGrant {s : State} (h : CountOk s) : CountOk (portGrant s) := by
  have own (x : OwnAccess) (t : State) (ht : CountOk t) : CountOk (ownMemory x t) := by
    unfold ownMemory
    split <;> exact ht
  unfold portGrant
  split
  · exact h
  · split
    · exact h
    · rename_i n hg
      have hn : CountOk (s.setPath { s.path with count := n }) := arbitrate_count_le h hg
      unfold grantUpstream
      split
      · exact hn
      · split <;> exact hn
    · rename_i n hg
      have hn : CountOk (s.setPath { s.path with count := n }) := arbitrate_count_le h hg
      unfold grantOwn
      split
      · exact hn
      · unfold serve
        split
        · exact hn
        · dsimp only
          have hs (c : Client) (rest : List OwnAccess) : CountOk ((s.setPath { s.path with count := n }).setPath
              { (s.setPath { s.path with count := n }).path.setIssued c rest with pointer := c.next }) := by
            cases c <;> exact hn
          split
          · exact hs _ _
          · exact own _ _ (hs _ _)

/-- Beside a reset and a grant nothing touches the count. -/
theorem countOk_of_keeps {c : List Part} {s t : State} (h : CountOk s) (hk : KeepsAllBut c s t) (hc : Part.count ∉ c) :
    CountOk t := by
  have e : t.path.count = s.path.count := hk .count hc
  unfold CountOk
  rw [e]
  exact h

theorem countOk_upstreamComplete {s : State} (h : CountOk s) : CountOk (upstreamComplete s) := by
  unfold upstreamComplete
  split
  · rename_i a _
    have h1 : CountOk (upstreamMemory a (freePort s)) := by cases a <;> exact h
    unfold upstreamDone
    dsimp only
    split
    · exact h1
    · split
      · unfold completeInHand
        have hsat (z : Option (Fin 48)) (u : State) : KeepsAllBut takeParts u (countSaturation z u) := by
          cases z with
          | none => exact .refl _
          | some z => exact (KeepsAllBut.refl _).teSaturate
        exact countOk_of_keeps h1 (((KeepsAllBut.refl _).takes ((hsat _ _).finishWord _ _ _)).afterWord) (by decide)
      · exact h1
  · exact h
  · exact h

theorem countOk_ownComplete {s : State} (row : OwnCompletion) (h : CountOk s) : CountOk (ownComplete row s) := by
  unfold ownComplete
  split
  · rename_i x _
    split
    · have h1 : CountOk (freePort (ownMemory x s)) := by
        unfold ownMemory
        split <;> exact h
      exact countOk_of_keeps h1 ((KeepsAllBut.refl _).deliver _) (by decide)
    · exact h
  · exact h
  · exact h

theorem countOk_exec {c : Instr} {s t : State} (h : CountOk s) (he : exec c s = .next t) : CountOk t := by
  refine exec_keeps he (fun cause => Nat.zero_le 8) (fun straps y => ?_) (fun w => ?_) (fun e _ => ?_)
    (countOk_portGrant h) (countOk_upstreamComplete h) (fun row => countOk_ownComplete row h)
  · exact countOk_of_keeps h (keeps_endReset straps y s) (by decide)
  · exact countOk_of_keeps h ((KeepsAllBut.refl s).presentWord w) (by decide)
  · exact countOk_of_keeps h ((KeepsAllBut.refl s).arrive e) (by decide)

/-- Settles O58: every command keeps the count (`countOk_exec`) and the seal (`sealOk_exec`). -/
theorem countAndSealStay : Obligations.CountAndSealStay := fun _ _ hc hs h =>
  step_keeps (P := fun u => CountOk u ∧ SealOk u) (fun _ _ h => h)
    (fun _ _ _ h he => ⟨countOk_exec h.1 he, sealOk_exec h.2 he⟩) ⟨hc, hs⟩ h

end Sys2Proof.Machine
end

section
/-!
PROOFS. RW stays within its bounds (O57). An access of RW goes from its queue to the port, from there to the events that
wait for a word's end, and then to RW: `MemPath.begun` is what lies beyond the queue, and `WriterOk` what RW's work says of
the accesses outstanding. A write that ends as an event is the last of its work (`WorkOutstanding.last`).
-/
namespace Sys2Proof.Machine

-- one theorem after another, as in the tests: side by side they take more threads than the memory limit allows
set_option Elab.async false

/-! ### RW's accesses outstanding and its work (R97, R157) -/

/-- RW's accesses granted whose end it has not taken: those whose end waits, then the one at the port. -/
def MemPath.begun (p : MemPath) : List OwnAccess :=
  p.held.filterMap SlowEvent.ofWriter ++ match p.port with
    | some (.own x) => if x.client = .rw then [x] else []
    | some (.upstream _) => []
    | none => []

/-- The accesses outstanding are those of RW's one piece of work. -/
def WorkOutstanding (w : ReportWriter) (l : List OwnAccess) : Prop :=
  match w.work with
  | .free => l = []
  | .status => ∃ off v, l = [.statusWrite off v]
  | .report => ∃ r rest k, w.queue = r :: rest ∧ k ≤ 4 ∧ l = (reportWrites r w.head).drop k

/-- The bounds of R155, and RW's work with these accesses outstanding. -/
def WriterOk (w : ReportWriter) (l : List OwnAccess) : Prop :=
  w.queue.length ≤ 8 ∧ (w.head - w.tail).toNat + w.queue.length ≤ 63 ∧ WorkOutstanding w l

/-- Each client's queue holds its own accesses, and only ends that are commands wait for a word. -/
def QueuesOk (p : MemPath) : Prop :=
  (∀ c, ∀ x ∈ p.issued c, x.client = c) ∧ ∀ x, .ownWritten x ∈ p.held → hasCompletion x = true

/-- The invariant of O57, in the terms of this part. -/
def BoundsOk (s : State) : Prop :=
  QueuesOk s.path ∧ WriterOk s.writer (s.path.begun ++ s.path.ownRW) ∧ DirtyOk s

theorem boundsOk_iff (s : State) : BoundsOk s ↔ RingOk s ∧ DirtyOk s := by
  have e : s.writerAccesses = s.path.begun ++ s.path.ownRW := rfl
  unfold BoundsOk RingOk QueuesOk WriterOk
  rw [e]
  constructor
  · rintro ⟨⟨h1, h2⟩, ⟨h3, h4, h5⟩, h6⟩
    exact ⟨⟨h1, h2, h3, h4, h5⟩, h6⟩
  · rintro ⟨⟨h1, h2, h3, h4, h5⟩, h6⟩
    exact ⟨⟨h1, h2⟩, ⟨h3, h4, h5⟩, h6⟩

section
variable {w : ReportWriter}

theorem workOutstanding_free (h : w.work = .free) (l : List OwnAccess) : WorkOutstanding w l ↔ l = [] := by
  unfold WorkOutstanding; rw [h]

theorem workOutstanding_status (h : w.work = .status) (l : List OwnAccess) :
    WorkOutstanding w l ↔ ∃ off v, l = [.statusWrite off v] := by
  unfold WorkOutstanding; rw [h]

theorem workOutstanding_report (h : w.work = .report) (l : List OwnAccess) : WorkOutstanding w l ↔
    ∃ r rest k, w.queue = r :: rest ∧ k ≤ 4 ∧ l = (reportWrites r w.head).drop k := by
  unfold WorkOutstanding; rw [h]

/-- RW's work depends on its work, queue and head alone. -/
theorem WorkOutstanding.congr {v : ReportWriter} {l : List OwnAccess} (h : WorkOutstanding w l) (h1 : v.work = w.work)
    (h2 : v.queue = w.queue) (h3 : v.head = w.head) : WorkOutstanding v l := by
  unfold WorkOutstanding at *
  rw [h1, h2, h3]
  exact h

/-- A report that joins the queue leaves the work in hand as it is. -/
theorem WorkOutstanding.append {v : ReportWriter} {l : List OwnAccess} (h : WorkOutstanding w l) (h1 : v.work = w.work)
    (q : Report) (h2 : v.queue = w.queue ++ [q]) (h3 : v.head = w.head) : WorkOutstanding v l := by
  unfold WorkOutstanding at *
  rw [h1]
  cases hw : w.work with
  | free => rw [hw] at h; exact h
  | status => rw [hw] at h; exact h
  | report =>
    rw [hw] at h
    obtain ⟨r, rest, k, hq, hk, hl⟩ := h
    exact ⟨r, rest ++ [q], k, by rw [h2, hq]; rfl, hk, by rw [h3]; exact hl⟩

/-- The five cases of how far a report's writes have come. -/
theorem drop_reportWrites_cons {r : Report} {i : BitVec 6} {k : Nat} {x : OwnAccess} {l : List OwnAccess} (hk : k ≤ 4)
    (h : x :: l = (reportWrites r i).drop k) :
    (k = 4 ∧ x = .headWrite (i + 1) ∧ l = []) ∨
      (k < 4 ∧ hasCompletion x = false ∧ l = (reportWrites r i).drop (k + 1)) := by
  unfold reportWrites at *
  rcases (show k = 0 ∨ k = 1 ∨ k = 2 ∨ k = 3 ∨ k = 4 by omega) with rfl | rfl | rfl | rfl | rfl
  case inr.inr.inr.inr =>
    simp only [List.drop_succ_cons, List.drop_zero, List.cons.injEq] at h
    exact .inl ⟨rfl, h.1, h.2⟩
  all_goals
    simp only [List.drop_succ_cons, List.drop_zero, List.cons.injEq] at h
    refine .inr ⟨by omega, by rw [h.1]; rfl, ?_⟩
    simp [h.2]

/-- A write that ends as an event of its own is the last of its work. -/
theorem WorkOutstanding.last {x : OwnAccess} {l : List OwnAccess} (h : WorkOutstanding w (x :: l))
    (hx : hasCompletion x = true) : l = [] := by
  cases hw : w.work with
  | free => exact absurd ((workOutstanding_free hw _).1 h) (by simp)
  | status =>
    obtain ⟨off, v, he⟩ := (workOutstanding_status hw _).1 h
    exact (List.cons.inj he).2
  | report =>
    obtain ⟨r, rest, k, hq, hk, he⟩ := (workOutstanding_report hw _).1 h
    rcases drop_reportWrites_cons hk he with ⟨-, -, hl⟩ | ⟨-, hc, -⟩
    · exact hl
    · rw [hx] at hc; cases hc

/-- A ring entry word written: the rest of the report's writes are left. -/
theorem WorkOutstanding.entryWritten {i : BitVec 6} {k : Fin 4} {v : Word} {l : List OwnAccess}
    (h : WorkOutstanding w (.entryWrite i k v :: l)) : WorkOutstanding w l := by
  cases hw : w.work with
  | free => exact absurd ((workOutstanding_free hw _).1 h) (by simp)
  | status =>
    obtain ⟨off, v, he⟩ := (workOutstanding_status hw _).1 h
    cases he
  | report =>
    obtain ⟨r, rest, k, hq, hk, he⟩ := (workOutstanding_report hw _).1 h
    rcases drop_reportWrites_cons hk he with ⟨-, hx, -⟩ | ⟨hlt, -, hl⟩
    · cases hx
    · exact (workOutstanding_report hw _).2 ⟨r, rest, k + 1, hq, by omega, hl⟩

/-- The head write ends its report, which is at the front of the queue, and names the next index. -/
theorem WorkOutstanding.headWritten {i : BitVec 6} {l : List OwnAccess} (h : WorkOutstanding w (.headWrite i :: l)) :
    i = w.head + 1 ∧ ∃ r rest, w.queue = r :: rest := by
  cases hw : w.work with
  | free => exact absurd ((workOutstanding_free hw _).1 h) (by simp)
  | status =>
    obtain ⟨off, v, he⟩ := (workOutstanding_status hw _).1 h
    cases he
  | report =>
    obtain ⟨r, rest, k, hq, hk, he⟩ := (workOutstanding_report hw _).1 h
    rcases drop_reportWrites_cons hk he with ⟨-, hx, -⟩ | ⟨-, hc, -⟩
    · cases hx
      exact ⟨rfl, r, rest, hq⟩
    · cases hc

end

/-! ### The dirty set (R161) -/

theorem pairwise_insertOffset (o : Nat) (l : List Nat) (h : l.Pairwise (· < ·)) : (insertOffset o l).Pairwise (· < ·) := by
  induction l with
  | nil => simp [insertOffset]
  | cons x rest ih =>
    obtain ⟨hx, hrest⟩ := List.pairwise_cons.1 h
    unfold insertOffset
    split
    · rename_i hlt
      refine List.pairwise_cons.2 ⟨fun y hy => ?_, h⟩
      rcases List.mem_cons.1 hy with rfl | hy
      · exact hlt
      · exact Nat.lt_trans hlt (hx y hy)
    · split
      · exact h
      · refine List.pairwise_cons.2 ⟨fun y hy => ?_, ih hrest⟩
        rcases (mem_insertOffset y o rest).1 hy with rfl | hy
        · omega
        · exact hx y hy

/-- Offsets of the status block marked leave a dirty set of such offsets. -/
theorem dirty_statusChanges (offs d : List Nat) (ho : ∀ o ∈ offs, 16 ≤ o ∧ o ≤ 117)
    (hd : d.Pairwise (· < ·) ∧ ∀ o ∈ d, 16 ≤ o ∧ o ≤ 117) :
    let e := offs.foldl (fun d o => insertOffset o d) d
    e.Pairwise (· < ·) ∧ ∀ o ∈ e, 16 ≤ o ∧ o ≤ 117 := by
  induction offs generalizing d with
  | nil => exact hd
  | cons x offs ih =>
    refine ih _ (fun o h => ho o (by simp [h])) ⟨pairwise_insertOffset x d hd.1, fun o h => ?_⟩
    rcases (mem_insertOffset o x d).1 h with rfl | h
    · exact ho _ (by simp)
    · exact hd.2 o h

/-! ### The work keeps the bounds -/

theorem queuesOk_issue {s : State} (c : Client) (l : List OwnAccess) (hl : ∀ x ∈ l, x.client = c) (h : QueuesOk s.path) :
    QueuesOk (s.issue c l).path := by
  refine ⟨fun d x hx => ?_, fun x hx => h.2 x (by cases c <;> exact hx)⟩
  rw [issue_path] at hx
  by_cases hd : d = c
  · subst hd
    rw [issued_setIssued] at hx
    exact (List.mem_append.1 hx).elim (h.1 d x) (hl x)
  · rw [issued_setIssued_ne _ _ _ _ hd] at hx
    exact h.1 d x hx

/-- RW begins a piece of work only where it has none, so that its accesses are those of the work begun. -/
theorem boundsOk_beginReport {s : State} (hw : s.writer.work = .free) (h : BoundsOk s) : BoundsOk s.beginReport := by
  obtain ⟨hq, ⟨h1, h2, h3⟩, hd⟩ := h
  have hempty : s.path.begun ++ s.path.ownRW = [] := (workOutstanding_free hw _).1 h3
  unfold State.beginReport
  split
  · exact ⟨hq, ⟨h1, h2, h3⟩, hd⟩
  · rename_i r rest hr
    refine ⟨queuesOk_issue .rw _ (by simp [reportWrites, OwnAccess.client]) hq, ⟨h1, h2, ?_⟩, hd⟩
    refine (workOutstanding_report rfl _).2 ⟨r, rest, 0, hr, by omega, ?_⟩
    show s.path.begun ++ (s.path.ownRW ++ reportWrites r s.writer.head) = _
    rw [← List.append_assoc, hempty]
    rfl

theorem boundsOk_issueStatus {s : State} (hw : s.writer.work = .free) (h : BoundsOk s) : BoundsOk s.issueStatus := by
  obtain ⟨hq, ⟨h1, h2, h3⟩, hd⟩ := h
  have hempty : s.path.begun ++ s.path.ownRW = [] := (workOutstanding_free hw _).1 h3
  unfold State.issueStatus
  split
  · exact ⟨hq, ⟨h1, h2, h3⟩, hd⟩
  · rename_i off rest hr
    obtain ⟨hp, hrange⟩ := hd
    rw [hr] at hp hrange
    refine ⟨queuesOk_issue .rw _ (by simp [OwnAccess.client]) hq, ⟨h1, h2, ?_⟩,
      ⟨(List.pairwise_cons.1 hp).2, fun o ho => hrange o (List.mem_cons_of_mem _ ho)⟩⟩
    refine (workOutstanding_status rfl _).2 ⟨off, s.statusWord off, ?_⟩
    show s.path.begun ++ (s.path.ownRW ++ [OwnAccess.statusWrite off (s.statusWord off)]) = _
    rw [← List.append_assoc, hempty]
    rfl

theorem boundsOk_statusFirst {s : State} (hw : s.writer.work = .free) (h : BoundsOk s) : BoundsOk s.statusFirst := by
  unfold State.statusFirst
  split
  · exact boundsOk_beginReport hw h
  · exact boundsOk_issueStatus hw h

theorem boundsOk_chooseWork {s : State} (h : BoundsOk s) : BoundsOk s.chooseWork := by
  unfold State.chooseWork State.reportFirst
  split
  · rename_i hw
    split
    · exact boundsOk_issueStatus hw h
    · split
      · exact boundsOk_issueStatus hw h
      · exact boundsOk_beginReport hw h
  · exact h

theorem boundsOk_statusChanges {s : State} (l : List Nat) (hl : ∀ o ∈ l, 16 ≤ o ∧ o ≤ 117) (h : BoundsOk s) :
    BoundsOk (s.statusChanges l) := by
  obtain ⟨hq, ⟨h1, h2, h3⟩, hd⟩ := h
  exact boundsOk_chooseWork ⟨hq, ⟨h1, h2, h3.congr rfl rfl rfl⟩, dirty_statusChanges l _ hl hd⟩

theorem boundsOk_request {s : State} (k : ReportKind) (n : Nat) (a b : Word) (h : BoundsOk s) :
    BoundsOk (s.request k n a b) := by
  obtain ⟨hq, ⟨h1, h2, h3⟩, hd⟩ := h
  unfold State.request
  split
  · rename_i hacc
    obtain ⟨a1, a2⟩ := (accepts_iff _).1 hacc
    refine boundsOk_chooseWork ⟨hq, ⟨?_, ?_, h3.append rfl _ rfl rfl⟩, hd⟩
    · show (s.writer.queue ++ [_]).length ≤ 8
      simp only [List.length_append, List.length_singleton]; omega
    · show (s.writer.head - s.writer.tail).toNat + (s.writer.queue ++ [_]).length ≤ 63
      simp only [List.length_append, List.length_singleton]; omega
  · exact boundsOk_statusChanges [19] (by decide) ⟨hq, ⟨h1, h2, h3.congr rfl rfl rfl⟩, hd⟩

/-- The tail moves towards the head, so the occupancy does not rise. -/
theorem boundsOk_tail {s : State} (v : Word) (h : BoundsOk s) : BoundsOk (rwTail v s) := by
  obtain ⟨hq, ⟨h1, h2, h3⟩, hd⟩ := h
  unfold rwTail
  dsimp only
  split
  · rename_i hm
    refine ⟨hq, ⟨h1, ?_, h3.congr rfl rfl rfl⟩, hd⟩
    have hmoved : (BitVec.ofNat 6 v.toNat - s.writer.tail).toNat ≤ (s.writer.head - s.writer.tail).toNat := hm.2
    show (s.writer.head - BitVec.ofNat 6 v.toNat).toNat + s.writer.queue.length ≤ 63
    generalize BitVec.ofNat 6 v.toNat = t at hmoved ⊢
    have e : (s.writer.head - t).toNat ≤ (s.writer.head - s.writer.tail).toNat := by bv_omega
    omega
  · exact ⟨hq, ⟨h1, h2, h3⟩, hd⟩

theorem keptByWork_bounds : KeptByWork BoundsOk where
  record := by
    intro s t h hw hp _
    unfold BoundsOk DirtyOk at *
    rw [hw, hp]
    exact h
  store _ h _ := h
  statusChanges l hl h := boundsOk_statusChanges l hl h
  request k n a b h := boundsOk_request k n a b h
  issue := by
    intro s c l hc hl h
    obtain ⟨hq, hw, hd⟩ := h
    refine ⟨queuesOk_issue c l hl hq, ?_, hd⟩
    cases c with
    | rw => exact absurd rfl hc
    | _ => exact hw
  tail v h := boundsOk_tail v h
  hand _ _ h := h

/-! ### RW takes the end of a write (R158, R162) -/

/-- The end of RW's write x is taken: x was the last of the work, and RW goes on. -/
theorem boundsOk_ownWritten {s : State} {x : OwnAccess} (hx : hasCompletion x = true) (hc : x.client = .rw)
    (hq : QueuesOk s.path) (hw : WriterOk s.writer (x :: (s.path.begun ++ s.path.ownRW))) (hd : DirtyOk s) :
    BoundsOk (takeEvent (.ownWritten x) s) := by
  obtain ⟨h1, h2, h3⟩ := hw
  have hempty : s.path.begun ++ s.path.ownRW = [] := h3.last hx
  cases x with
  | planRead _ => cases hc
  | detailWrite _ _ => cases hc
  | answerWrite _ => cases hc
  | imageWrite _ _ => cases hc
  | entryWrite _ _ _ => cases hx
  | headWrite i =>
    obtain ⟨rfl, r, rest, hr⟩ := h3.headWritten
    let done := s.setWriter { s.writer with head := s.writer.head + 1, queue := s.writer.queue.tail, work := .free }
    have hdone : BoundsOk done := by
      refine ⟨hq, ⟨?_, ?_, (workOutstanding_free rfl _).2 hempty⟩, hd⟩
      · show s.writer.queue.tail.length ≤ 8
        rw [List.length_tail]; omega
      · show (s.writer.head + 1 - s.writer.tail).toNat + s.writer.queue.tail.length ≤ 63
        rw [hr] at h2 ⊢
        simp only [List.length_cons, List.tail_cons] at h2 ⊢
        have : (s.writer.head + 1 - s.writer.tail).toNat ≤ (s.writer.head - s.writer.tail).toNat + 1 := by bv_omega
        omega
    exact boundsOk_statusFirst rfl hdone
  | statusWrite off v =>
    have hdone : BoundsOk (s.setWriter { s.writer with work := .free }) :=
      ⟨hq, ⟨h1, h2, (workOutstanding_free rfl _).2 hempty⟩, hd⟩
    exact keptByWork_bounds.cuEndStartUp (boundsOk_chooseWork hdone)

/-- Among what lies beyond RW's queue only ends that are commands wait. -/
theorem hasCompletion_of_held {p : MemPath} (hq : QueuesOk p) {x : OwnAccess}
    (hx : x ∈ p.held.filterMap SlowEvent.ofWriter) : hasCompletion x = true := by
  obtain ⟨e, he, hx⟩ := List.mem_filterMap.1 hx
  cases e with
  | ownWritten y =>
    simp only [SlowEvent.ofWriter] at hx
    split at hx
    · cases hx; exact hq.2 _ he
    · cases hx
  | _ => cases hx

/-- Before an access whose end no event waits to bring, nothing waits: its end would have been the last. -/
theorem WorkOutstanding.noneHeld {w : ReportWriter} {p : MemPath} (hq : QueuesOk p) {x : OwnAccess} {l : List OwnAccess}
    (h : WorkOutstanding w (p.held.filterMap SlowEvent.ofWriter ++ x :: l)) :
    p.held.filterMap SlowEvent.ofWriter = [] := by
  cases hh : p.held.filterMap SlowEvent.ofWriter with
  | nil => rfl
  | cons y rest =>
    rw [hh] at h
    have hy : hasCompletion y = true := hasCompletion_of_held hq (by rw [hh]; simp)
    exact absurd (h.last hy) (by simp)

/-! ### What waits, and the port -/

theorem boundsOk_heldEvent {s : State} {e : SlowEvent} {rest : List SlowEvent} (hs : s.path.held = e :: rest)
    (h : BoundsOk s) : BoundsOk (takeEvent e (s.setPath { s.path with held := rest })) := by
  obtain ⟨hq, hw, hd⟩ := h
  have hq' : QueuesOk { s.path with held := rest } := ⟨hq.1, fun x hx => hq.2 x (by rw [hs]; exact List.mem_cons_of_mem _ hx)⟩
  unfold MemPath.begun at hw
  rw [hs] at hw
  cases he : e.ofWriter with
  | none =>
    refine keptByWork_bounds.takeEvent e he ⟨hq', ?_, hd⟩
    rw [List.filterMap_cons_none he] at hw
    exact hw
  | some x =>
    rw [List.filterMap_cons_some he] at hw
    cases e with
    | ownWritten y =>
      simp only [SlowEvent.ofWriter] at he
      split at he
      · rename_i hc
        cases he
        exact boundsOk_ownWritten (hq.2 _ (by rw [hs]; simp)) hc hq' hw hd
      · cases he
    | _ => cases he

theorem boundsOk_hold {s : State} (e : SlowEvent) (he : e.ofWriter = none)
    (hc : ∀ x, e = .ownWritten x → hasCompletion x = true) (h : BoundsOk s) :
    BoundsOk (s.setPath { s.path with held := s.path.held ++ [e] }) := by
  obtain ⟨hq, hw, hd⟩ := h
  refine ⟨⟨hq.1, fun x hx => ?_⟩, ?_, hd⟩
  · rcases List.mem_append.1 hx with hx | hx
    · exact hq.2 x hx
    · exact hc x (List.mem_singleton.1 hx).symm
  · have e1 : (s.path.held ++ [e]).filterMap SlowEvent.ofWriter = s.path.held.filterMap SlowEvent.ofWriter := by
      rw [List.filterMap_append, List.filterMap_cons_none he, List.filterMap_nil, List.append_nil]
    show WriterOk s.writer (MemPath.begun { s.path with held := s.path.held ++ [e] } ++ s.path.ownRW)
    unfold MemPath.begun at hw ⊢
    dsimp only
    rw [e1]
    exact hw

theorem keptThrough_bounds : KeptThrough BoundsOk :=
  { keptByWork_bounds with
    waiting := fun _ h => h
    hold := fun e he hc h => boundsOk_hold e he hc h
    heldEvent := fun hs h => boundsOk_heldEvent hs h }

theorem begun_eq (p : MemPath) : p.begun = p.held.filterMap SlowEvent.ofWriter ++ match p.port with
    | some (.own x) => if x.client = .rw then [x] else []
    | some (.upstream _) => []
    | none => [] := rfl

/-- A client of the engine is served: its oldest access goes to the port, or is made at once. -/
theorem boundsOk_serve {s : State} (c : Client) (hp : s.path.port = none) (h : BoundsOk s) : BoundsOk (serve c s) := by
  obtain ⟨hq, ⟨h1, h2, h3⟩, hd⟩ := h
  unfold serve
  split
  · exact ⟨hq, ⟨h1, h2, h3⟩, hd⟩
  rename_i x rest hi
  have hx : x.client = c := hq.1 c x (by rw [hi]; simp)
  have hq' (p : Option PortUse) : QueuesOk { s.path.setIssued c rest with pointer := c.next, port := p } := by
    refine ⟨fun d y hy => hq.1 d y ?_, fun y hy => hq.2 y (by cases c <;> exact hy)⟩
    by_cases hdc : d = c
    · subst hdc
      have hy' : y ∈ (s.path.setIssued d rest).issued d := by cases d <;> exact hy
      rw [issued_setIssued] at hy'
      rw [hi]
      exact List.mem_cons_of_mem _ hy'
    · have hy' : y ∈ (s.path.setIssued c rest).issued d := by cases d <;> exact hy
      rwa [issued_setIssued_ne _ _ _ _ hdc] at hy'
  have hbegun : s.path.begun = s.path.held.filterMap SlowEvent.ofWriter := by
    rw [begun_eq, hp, List.append_nil]
  dsimp only
  by_cases hc : c = .rw
  · subst hc
    have hi' : s.path.ownRW = x :: rest := hi
    rw [hbegun, hi'] at h3
    split
    · refine ⟨hq' _, ⟨h1, h2, ?_⟩, hd⟩
      show WorkOutstanding s.writer ((s.path.held.filterMap SlowEvent.ofWriter ++
        if x.client = .rw then [x] else []) ++ rest)
      rw [if_pos hx, List.append_assoc]
      exact h3
    · rename_i hcomp
      have hnone := h3.noneHeld hq
      have h4 : WorkOutstanding s.writer rest := by
        rw [hnone, List.nil_append] at h3
        cases x with
        | entryWrite _ _ _ => exact h3.entryWritten
        | detailWrite _ _ => cases hx
        | planRead _ => cases hx
        | answerWrite _ => cases hx
        | imageWrite _ _ => cases hx
        | headWrite _ => exact absurd rfl hcomp
        | statusWrite _ _ => exact absurd rfl hcomp
      have h5 : BoundsOk (s.setPath { s.path.setIssued .rw rest with pointer := Client.rw.next }) := by
        refine ⟨hq' s.path.port, ⟨h1, h2, ?_⟩, hd⟩
        show WorkOutstanding s.writer (s.path.begun ++ rest)
        rw [hbegun, hnone]
        exact h4
      unfold ownMemory
      split <;> exact h5
  · have hrw : x.client ≠ .rw := by rw [hx]; exact hc
    split
    · refine ⟨hq' _, ⟨h1, h2, ?_⟩, hd⟩
      have e : MemPath.begun { s.path.setIssued c rest with pointer := c.next, port := some (.own x) } = s.path.begun := by
        rw [hbegun, begun_eq]
        cases c <;> simp [if_neg hrw]
      have e' : ({ s.path.setIssued c rest with pointer := c.next, port := some (.own x) } : MemPath).ownRW = s.path.ownRW := by
        cases c <;> first | rfl | exact absurd rfl hc
      show WorkOutstanding s.writer (MemPath.begun { s.path.setIssued c rest with pointer := c.next, port := some (.own x) }
        ++ ({ s.path.setIssued c rest with pointer := c.next, port := some (.own x) } : MemPath).ownRW)
      rw [e, e']
      exact h3
    · have h5 : BoundsOk (s.setPath { s.path.setIssued c rest with pointer := c.next }) := by
        refine ⟨?_, ⟨h1, h2, ?_⟩, hd⟩
        · have := hq' s.path.port
          cases c <;> exact this
        · cases c <;> first | exact h3 | exact absurd rfl hc
      unfold ownMemory
      split <;> exact h5

theorem boundsOk_portGrant {s : State} (h : BoundsOk s) : BoundsOk (portGrant s) := by
  unfold portGrant
  split
  · exact h
  · rename_i hp
    split
    · exact h
    · unfold grantUpstream
      split
      · exact h
      · split
        · exact h
        · obtain ⟨hq, hw, hd⟩ := h
          refine ⟨hq, ?_, hd⟩
          rw [begun_eq, hp] at hw
          exact hw
    · unfold grantOwn
      split
      · exact h
      · exact boundsOk_serve _ hp h

theorem boundsOk_upstreamComplete {s : State} (h : BoundsOk s) : BoundsOk (upstreamComplete s) := by
  unfold upstreamComplete
  split
  · rename_i a hp
    refine keptThrough_bounds.upstreamDone a ?_
    have h1 : BoundsOk (freePort s) := by
      obtain ⟨hq, hw, hd⟩ := h
      refine ⟨hq, ?_, hd⟩
      rw [begun_eq, hp] at hw
      exact hw
    cases a <;> exact h1
  · exact h
  · exact h

/-- An access whose end is a row of the table is one whose end is a command. -/
theorem hasCompletion_of_row {x : OwnAccess} {row : OwnCompletion} (h : completionOf x = some row) :
    hasCompletion x = true := by
  cases x <;> first | rfl | cases h

/-- The end of an own write of another client than RW is none of RW's events. -/
theorem ofWriter_endOf {x : OwnAccess} (hx : x.client ≠ .rw) (s : State) : (endOf x s).ofWriter = none := by
  cases x <;> first | rfl | exact absurd rfl hx

theorem endOf_writer {x : OwnAccess} (hx : x.client = .rw) (s : State) : endOf x s = .ownWritten x := by
  cases x <;> first | rfl | cases hx

theorem boundsOk_ownComplete {s : State} (row : OwnCompletion) (h : BoundsOk s) : BoundsOk (ownComplete row s) := by
  unfold ownComplete
  split
  case h_2 => exact h
  case h_3 => exact h
  rename_i x hp
  split
  case isFalse => exact h
  rename_i hrow
  have hx := hasCompletion_of_row hrow
  obtain ⟨hq, hw, hd⟩ := h
  have hpath : (freePort (ownMemory x s)).path = { s.path with port := none } := by
    unfold ownMemory
    split <;> rfl
  have hwriter : (freePort (ownMemory x s)).writer = s.writer := by
    unfold ownMemory
    split <;> rfl
  generalize freePort (ownMemory x s) = u at hpath hwriter
  have hqu : QueuesOk u.path := by rw [hpath]; exact hq
  have hdu : DirtyOk u := by unfold DirtyOk; rw [hwriter]; exact hd
  have hbegun : u.path.begun = s.path.held.filterMap SlowEvent.ofWriter := by
    rw [hpath, begun_eq, List.append_nil]
  have hrw : u.path.ownRW = s.path.ownRW := by rw [hpath]
  rw [begun_eq, hp] at hw
  dsimp only at hw
  by_cases hc : x.client = .rw
  case neg =>
    rw [if_neg hc, List.append_nil] at hw
    refine keptThrough_bounds.deliver _ (ofWriter_endOf hc s) (fun y hy => ?_)
      ⟨hqu, by rw [hwriter, hbegun, hrw]; exact hw, hdu⟩
    unfold endOf at hy
    split at hy
    · cases hy
    · cases hy; exact hx
  case pos =>
    rw [if_pos hc, List.append_assoc, List.singleton_append] at hw
    rw [endOf_writer hc]
    unfold deliver
    split
    · refine ⟨⟨hqu.1, fun y hy => ?_⟩, ?_, hdu⟩
      · rcases List.mem_append.1 hy with hy | hy
        · exact hqu.2 y hy
        · cases List.mem_singleton.1 hy; exact hx
      · have e : MemPath.begun { u.path with held := u.path.held ++ [.ownWritten x] } =
            s.path.held.filterMap SlowEvent.ofWriter ++ [x] := by
          have ex : (SlowEvent.ownWritten x).ofWriter = some x := if_pos hc
          rw [begun_eq, hpath]
          simp [List.filterMap_append, ex]
        show WriterOk u.writer (MemPath.begun { u.path with held := u.path.held ++ [.ownWritten x] } ++ u.path.ownRW)
        rw [e, hwriter, hrw, List.append_assoc, List.singleton_append]
        exact hw
    · have hnone := hw.2.2.noneHeld hq
      rw [hnone, List.nil_append] at hw
      refine boundsOk_ownWritten hx hc hqu ?_ hdu
      rw [hwriter, hbegun, hrw, hnone]
      exact hw

/-! ### Every command -/

theorem writerOk_reset : WriterOk ReportWriter.reset [] := ⟨by decide, by decide, rfl⟩

theorem dirtyOk_reset : DirtyOk State.reset := by
  have range : ∀ o, o ∈ List.range' 16 102 → 16 ≤ o ∧ o ≤ 117 := fun o ho => by
    simp only [List.mem_range'_1] at ho; omega
  exact ⟨List.pairwise_lt_range', range⟩

theorem boundsOk_reset (cause : ResetCause) (s : State) : BoundsOk (takeReset cause s) := by
  refine ⟨⟨fun c x hx => ?_, fun x hx => absurd hx (by simp [takeReset, MemPath.reset])⟩, writerOk_reset, dirtyOk_reset⟩
  cases c <;> simp [takeReset, MemPath.reset] at hx

theorem boundsOk_exec {c : Instr} {s t : State} (h : BoundsOk s) (he : exec c s = .next t) : BoundsOk t := by
  refine exec_keeps he (fun cause => boundsOk_reset cause s) (fun straps y => ?_)
    (fun w => keptThrough_bounds.presentWord w h) (fun e hx => keptThrough_bounds.arrive e hx h) (boundsOk_portGrant h)
    (boundsOk_upstreamComplete h) (fun row => boundsOk_ownComplete row h)
  unfold endReset
  split
  · exact boundsOk_chooseWork h
  · exact h

/-- Settles O57: every command keeps the bounds (`boundsOk_exec`). -/
theorem reportWriterStaysInBounds : Obligations.ReportWriterStaysInBounds := fun s t hr hd h =>
  (boundsOk_iff t).1 (step_keeps (P := BoundsOk) (fun _ _ h => h) (fun _ _ _ h he => boundsOk_exec h he)
    ((boundsOk_iff s).2 ⟨hr, hd⟩) h)

end Sys2Proof.Machine
end

section
/-!
PROOFS. The decision of the source election unit (2.4): the loudest candidate of a list, and the verdict (O6).
-/
namespace Sys2Proof.Machine

-- one theorem after another, as in the tests: side by side they take more threads than the memory limit allows
set_option Elab.async false

/-! ### The loudest candidate (R29, R30) -/

/-- The loudest so far and the next candidate. -/
def louder (r : AreaRec) (best : Option (Fin 8)) (i : Fin 8) : Option (Fin 8) :=
  match best with
  | none => some i
  | some b => if r.level b < r.level i then some i else some b

theorem loudest_eq (r : AreaRec) (l : List (Fin 8)) : loudest r l = l.foldl (louder r) none := rfl

/-- The fold from a candidate on ends at a candidate of the list or at it. -/
theorem foldl_louder_mem (r : AreaRec) (l : List (Fin 8)) (b : Fin 8) :
    ∃ d ∈ b :: l, l.foldl (louder r) (some b) = some d := by
  induction l generalizing b with
  | nil => exact ⟨b, by simp, rfl⟩
  | cons x l ih =>
    rw [List.foldl_cons]
    by_cases h : r.level b < r.level x
    · obtain ⟨d, hd, e⟩ := ih x
      exact ⟨d, by simp at hd ⊢; tauto, by simpa [louder, h] using e⟩
    · obtain ⟨d, hd, e⟩ := ih b
      exact ⟨d, by simp at hd ⊢; tauto, by simpa [louder, h] using e⟩

theorem loudest_mem {r : AreaRec} {l : List (Fin 8)} {d : Fin 8} (h : loudest r l = some d) : d ∈ l := by
  cases l with
  | nil => cases h
  | cons b l =>
    obtain ⟨e, he, eq⟩ := foldl_louder_mem r l b
    have hd : some e = some d := eq.symm.trans h
    cases hd
    exact he

theorem loudest_none {r : AreaRec} {l : List (Fin 8)} : loudest r l = none ↔ l = [] := by
  cases l with
  | nil => simp [loudest]
  | cons b l =>
    obtain ⟨e, -, eq⟩ := foldl_louder_mem r l b
    have h : loudest r (b :: l) = some e := eq
    simp [h]

/-- The candidate no other exceeds, and none of lower index equals, is where the fold over rising indices ends. -/
theorem foldl_louder_isLoudest {r : AreaRec} {d : Fin 8} (l : List (Fin 8)) (b : Fin 8) (hs : (b :: l).Pairwise (· < ·))
    (hd : IsLoudest r d (b :: l)) : l.foldl (louder r) (some b) = some d := by
  induction l generalizing b with
  | nil => rw [List.mem_singleton.1 hd.1]; rfl
  | cons x l ih =>
    obtain ⟨hmem, hmax⟩ := hd
    have hbx : b < x := (List.pairwise_cons.1 hs).1 x (by simp)
    have hb := hmax b (by simp)
    have hx := hmax x (by simp)
    rw [List.foldl_cons]
    by_cases h : r.level b < r.level x
    · have hne : d ≠ b := by rintro rfl; omega
      have hl : louder r (some b) x = some x := by simp [louder, h]
      rw [hl]
      exact ih x (List.pairwise_cons.1 hs).2
        ⟨(List.mem_cons.1 hmem).resolve_left hne, fun e he => hmax e (List.mem_cons_of_mem _ he)⟩
    · have hne : d ≠ x := by rintro rfl; omega
      have hl : louder r (some b) x = some b := by simp [louder, h]
      rw [hl]
      refine ih b (hs.sublist (by simp)) ⟨?_, fun e he => hmax e ?_⟩
      · simp only [List.mem_cons] at hmem ⊢
        tauto
      · simp only [List.mem_cons] at he ⊢
        tauto

theorem loudest_of_isLoudest {r : AreaRec} {d : Fin 8} {l : List (Fin 8)} (hs : l.Pairwise (· < ·))
    (hd : IsLoudest r d l) : loudest r l = some d := by
  cases l with
  | nil => exact absurd hd.1 (by simp)
  | cons b l => exact foldl_louder_isLoudest l b hs hd

/-! ### Eligible candidates -/

@[simp] theorem mem_candidates (p : Plan) (a i : Fin 8) : i ∈ p.candidates a ↔ i.val < p.candCount a.val := by
  simp [Plan.candidates]

theorem mem_eligibles (p : Plan) (a : Fin 8) (r : AreaRec) (i : Fin 8) : i ∈ eligibles p a r ↔
    i.val < p.candCount a.val ∧ ((r.report i).cond = .running ∨ (r.report i).cond = .synced) ∧
      p.threshold a.val ≤ r.level i := by
  simp [eligibles, eligible]

/-- Candidates are weighed in rising order. -/
theorem pairwise_eligibles (p : Plan) (a : Fin 8) (r : AreaRec) : (eligibles p a r).Pairwise (· < ·) :=
  ((List.pairwise_lt_finRange 8).filter _).filter _

/-! ### The weighed record (R28) -/

theorem nextEnvelope_eq (shift e : Nat) (l : Level) :
    nextEnvelope shift e l =
      if l.cond = .idle ∨ l.cond = .faulted then 0 else max (e - e / 2 ^ shift) l.peak := by
  unfold nextEnvelope decayed
  cases l.cond <;> simp

theorem level_weighed (p : Plan) (a : Fin 8) (r : AreaRec) (i : Fin 8) :
    (weighed p a r).level i =
      if i.val < p.candCount a.val then nextEnvelope (p.decayShift a.val) (r.level i) (r.report i) else r.level i := by
  simp [weighed, AreaRec.level]

/-! ### The verdict -/

theorem verdict_challenge {p : Plan} {a : Fin 8} {r : AreaRec} {c : Fin 8} (hc : r.elected = some c)
    (h : c ∈ eligibles p a r) : verdict p a r = challenge p a r c := by
  simp [verdict, hc, h]

theorem verdict_replacement {p : Plan} {a : Fin 8} {r : AreaRec}
    (h : ∀ c, r.elected = some c → c ∉ eligibles p a r) : verdict p a r = replacement p a r := by
  unfold verdict
  cases hc : r.elected with
  | none => rfl
  | some c => simp [h c hc]

theorem replacement_loudest {p : Plan} {a : Fin 8} {r : AreaRec} {d : Fin 8} (h : loudest r (eligibles p a r) = some d) :
    replacement p a r = .switch (some d) := by
  simp [replacement, h]

theorem replacement_quiet {p : Plan} {a : Fin 8} {r : AreaRec} {c : Fin 8} (h : eligibles p a r = [])
    (hc : r.elected = some c) :
    replacement p a r = if (r.report c).cond = .faulted ∨ p.releaseFrames a.val ≤ r.quiet + 1 then .switch none
      else .keep (r.quiet + 1) := by
  simp only [replacement, loudest_none.2 h, hc]
  by_cases hf : (r.report c).cond = .faulted <;> simp [hf]

/-- A switch to a candidate is one to an eligible candidate. -/
theorem switch_mem {p : Plan} {a : Fin 8} {r : AreaRec} {d : Fin 8} (h : verdict p a r = .switch (some d)) :
    d ∈ eligibles p a r := by
  by_cases hin : ∃ c, r.elected = some c ∧ c ∈ eligibles p a r
  · obtain ⟨c, hc, hce⟩ := hin
    rw [verdict_challenge hc hce] at h
    unfold challenge at h
    split at h
    · cases h
    · rename_i e he
      split at h
      · cases h
        exact List.mem_of_mem_filter (loudest_mem he)
      · cases h
  · rw [verdict_replacement (fun c hc hce => hin ⟨c, hc, hce⟩)] at h
    unfold replacement at h
    split at h
    · rename_i e he
      cases h
      exact loudest_mem he
    · cases h
    · repeat' split at h
      all_goals cases h

/-- A switch to NONE is one of a source that was one. -/
theorem switch_none_elected {p : Plan} {a : Fin 8} {r : AreaRec} (h : verdict p a r = .switch none) :
    r.elected ≠ none := by
  intro hn
  rw [verdict_replacement (fun c hc => by rw [hn] at hc; cases hc)] at h
  unfold replacement at h
  rw [hn] at h
  split at h <;> simp_all

/-- Settles O6: the two tables of 2.4, by whether the source is eligible (`challenge`, `replacement`). -/
theorem electionDecision : Obligations.ElectionDecision := by
  intro p a r
  refine ⟨fun i => ?envelopes, rfl, fun i => mem_eligibles p a r i, fun c hc hce => ⟨fun d hd => ?louder, fun hone => ?alone⟩,
    fun hnot => ⟨fun d hd => ?replaced, fun hnone => ⟨fun hn => ?stays, fun c hc => ?quiet⟩⟩⟩
  case envelopes => rw [level_weighed, nextEnvelope_eq]
  case louder =>
    have h := loudest_of_isLoudest ((pairwise_eligibles p a r).filter _) hd
    rw [verdict_challenge hc hce]
    simp only [challenge, h]
  case alone =>
    have h : (eligibles p a r).filter (· ≠ c) = [] :=
      List.filter_eq_nil_iff.2 fun d hd => by simp [hone d hd]
    rw [verdict_challenge hc hce]
    simp only [challenge, loudest_none.2 h]
  case replaced =>
    rw [verdict_replacement hnot, replacement_loudest (loudest_of_isLoudest (pairwise_eligibles p a r) hd)]
  case stays =>
    rw [verdict_replacement hnot]
    simp only [replacement, loudest_none.2 hnone, hn]
  case quiet => rw [verdict_replacement hnot, replacement_quiet hnone hc]

end Sys2Proof.Machine
end

section
/-!
PROOFS. Frame marks on lines (O5) and on guard records (O17). First what a mark makes of every record of LT and ZC and
which parts its blocks leave alone; then how the answer to a frame mark is read off the blocks' work.
-/
namespace Sys2Proof.Machine

-- one theorem after another, as in the tests: side by side they take more threads than the memory limit allows
set_option Elab.async false

/-! ### Records of kept parts -/

theorem line_of_keeps {c : List Part} {s t : State} (h : KeepsAllBut c s t) (l : Fin 24)
    (hc : Part.lines ∉ c := by decide) : t.line l = s.line l := by
  have := h .lines hc
  unfold State.line; rw [this]

theorem area_of_keeps {c : List Part} {s t : State} (h : KeepsAllBut c s t) (a : Fin 8)
    (hc : Part.areas ∉ c := by decide) : t.area a = s.area a := by
  have := h .areas hc
  unfold State.area; rw [this]

theorem tap_of_keeps {c : List Part} {s t : State} (h : KeepsAllBut c s t) (z : Fin 48)
    (hc : Part.taps ∉ c := by decide) : t.tap z = s.tap z := by
  have := h .taps hc
  unfold State.tap; rw [this]

theorem guard_of_keeps {c : List Part} {s t : State} (h : KeepsAllBut c s t) (z : Fin 48)
    (hc : Part.guards ∉ c := by decide) : t.guard z = s.guard z := by
  have := h .guards hc
  unfold State.guard; rw [this]

theorem store_of_keeps {c : List Part} {s t : State} (h : KeepsAllBut c s t)
    (hc : ∀ q ∈ [Part.words, .storeCond, .programming, .permit, .imageCursor, .checkPending], q ∉ c := by decide) :
    t.store = s.store := by
  have h1 := h .words (hc _ (by decide))
  have h2 := h .storeCond (hc _ (by decide))
  have h3 := h .programming (hc _ (by decide))
  have h4 := h .permit (hc _ (by decide))
  have h5 := h .imageCursor (hc _ (by decide))
  have h6 := h .checkPending (hc _ (by decide))
  cases ht : t.store
  cases hs : s.store
  simp_all [Same]

theorem loader_of_keeps {c : List Part} {s t : State} (h : KeepsAllBut c s t)
    (hc : ∀ q ∈ [Part.loadState, .cursor, .readInFlight, .staleRead, .torn, .sum, .loadWords, .standby, .live,
      .outcome], q ∉ c := by decide) : t.loader = s.loader := by
  have h1 := h .loadState (hc _ (by decide))
  have h2 := h .cursor (hc _ (by decide))
  have h3 := h .readInFlight (hc _ (by decide))
  have h4 := h .staleRead (hc _ (by decide))
  have h5 := h .torn (hc _ (by decide))
  have h6 := h .sum (hc _ (by decide))
  have h7 := h .loadWords (hc _ (by decide))
  have h8 := h .standby (hc _ (by decide))
  have h9 := h .live (hc _ (by decide))
  have h10 := h .outcome (hc _ (by decide))
  cases ht : t.loader
  cases hs : s.loader
  simp_all [Same]

theorem command_of_keeps {c : List Part} {s t : State} (h : KeepsAllBut c s t)
    (hc : ∀ q ∈ [Part.device, .cause, .slot, .shadow, .latched, .lastTag, .lastStamp], q ∉ c := by decide) :
    t.command = s.command := by
  have h1 := h .device (hc _ (by decide))
  have h2 := h .cause (hc _ (by decide))
  have h3 := h .slot (hc _ (by decide))
  have h4 := h .shadow (hc _ (by decide))
  have h5 := h .latched (hc _ (by decide))
  have h6 := h .lastTag (hc _ (by decide))
  have h7 := h .lastStamp (hc _ (by decide))
  cases ht : t.command
  cases hs : s.command
  simp_all [Same]

/-! ### What the blocks' work at a mark may touch -/

theorem KeepsAllBut.ltReports {c : List Part} {s t : State} {p : Plan} {m : Word} {l : Fin 24}
    (h : KeepsAllBut c s t) (hc : ∀ q ∈ decisionParts, q ∈ c := by decide) : KeepsAllBut c s (ltReports p m l t) := by
  unfold Machine.ltReports
  split
  · refine .forEach _ (fun a u hu => ?_) h
    unfold ltReportTo
    split
    · exact hu
    · exact hu.seTake hc
  · exact h

/-- What the swap of a mark may touch. -/
def swapParts : List Part := [.areas, .taps, .loadState, .standby, .live, .outcome] ++ reportParts

theorem keeps_plMark (p : Plan) (s : State) : KeepsAllBut swapParts s (plMark p s) := by
  unfold Machine.plMark
  split
  · split
    · exact .refl s
    · rename_i q _
      have h0 : KeepsAllBut swapParts s (plSwapPlans q s) :=
        fun x hx => by cases x <;> first | rfl | exact absurd (by decide) hx
      have h1 : KeepsAllBut swapParts s (forEach q.zonesInUse (swapNotice q) (teSwap q (seSwap p q (plSwapPlans q s)))) := by
        refine .forEach _ (fun z u hu => ?_) (h0.seSwap.teSwap)
        unfold swapNotice
        split
        · exact hu
        · exact hu.teNotice
      exact h1.request.statusChange
  · exact .refl s

/-- What the blocks' work at a frame mark may touch (R125). -/
theorem keeps_frameWork (p : Plan) (stamp : Word) (s : State) :
    KeepsAllBut frameMarkParts s (frameWork p stamp s) :=
  (((KeepsAllBut.refl s).teMark.ltMark).zcMark).trans ((keeps_plMark p _).mono (by decide))

/-! ### Lines at a mark (R10, R11, R13) -/

/-- R10, R11: what LT's work at a mark makes of a line's record. -/
def LineRec.afterMark (p : Plan) (l : Fin 24) (r : LineRec) : LineRec :=
  match r.cond with
  | .idle => r
  | .synced => { r.latched with cond := .running }
  | .running => r.latched
  | .faulted =>
    if r.cleanFrame then
      if p.recoverFrames l.val ≤ r.quiet + 1 then { r.latched with cond := .running, quiet := 0 }
      else { r.latched with quiet := r.quiet + 1 }
    else r.latched

/-- R15: whether LT's work at a mark changes a line's condition. -/
def LineRec.turnsRunning (p : Plan) (l : Fin 24) (r : LineRec) : Prop :=
  r.cond = .synced ∨ (r.cond = .faulted ∧ r.cleanFrame = true ∧ p.recoverFrames l.val ≤ r.quiet + 1)

@[simp] theorem latched_cond (r : LineRec) : r.latched.cond = r.cond := rfl

@[simp] theorem latched_quiet (r : LineRec) : r.latched.quiet = r.quiet := rfl

@[simp] theorem latched_cleanFrame (r : LineRec) : r.latched.cleanFrame = r.cleanFrame := rfl

theorem line_ltMarkLine_self (p : Plan) (l : Fin 24) (t : State) :
    (ltMarkLine p l t).line l = (t.line l).afterMark p l := by
  unfold ltMarkLine LineRec.afterMark
  dsimp only
  rw [latched_cond]
  cases (t.line l).cond
  case idle => rfl
  case synced => simp
  case running => simp
  case faulted =>
    by_cases hc : (t.line l).cleanFrame = true
    · by_cases hq : p.recoverFrames l.val ≤ (t.line l).quiet + 1 <;> simp [hc, hq]
    · simp [hc]

theorem marked_ltMarkLine (p : Plan) (l : Fin 24) (t : State) (h : (t.line l).turnsRunning p l) :
    Marked (ltMarkLine p l t) (30 + l.val) := by
  unfold ltMarkLine
  dsimp only
  rw [latched_cond]
  rcases h with h | ⟨hf, hc, hq⟩
  · rw [h]
    exact marked_statusChange _ _
  · rw [hf]
    dsimp only
    rw [if_pos (show (t.line l).latched.cleanFrame = true from hc),
      if_pos (show p.recoverFrames l.val ≤ (t.line l).latched.quiet + 1 from hq)]
    exact marked_statusChange _ _

theorem line_ltMark (p : Plan) (stamp : Word) (t : State) (l : Fin 24) :
    (ltMark p stamp t).line l =
      if l.val < p.lineCount then ((t.line l).afterMark p l).newFrame else t.line l := by
  have clear (u : State) : (forEach p.linesInUse ltClearFrame u).line l =
      if l ∈ p.linesInUse then (u.line l).newFrame else u.line l :=
    forEach_record (fun t l => t.line l) (fun _ => True) (fun _ => LineRec.newFrame) ltClearFrame (fun _ _ _ => trivial)
      (fun i u _ => by simp [ltClearFrame, LineRec.newFrame])
      (fun i k u _ h => by simp [ltClearFrame, line_setLine_ne _ _ _ _ h]) p.linesInUse (nodup_linesInUse p) u trivial l
  have mark : (forEach p.linesInUse (ltMarkLine p) t).line l =
      if l ∈ p.linesInUse then (t.line l).afterMark p l else t.line l :=
    forEach_record (fun t l => t.line l) (fun _ => True) (fun l r => r.afterMark p l) (ltMarkLine p)
      (fun _ _ _ => trivial) (fun i u _ => line_ltMarkLine_self p i u) (fun i k u _ h => line_ltMarkLine_ne p i k u h)
      p.linesInUse (nodup_linesInUse p) t trivial l
  have reports : KeepsAllBut decisionParts (forEach p.linesInUse (ltMarkLine p) t)
      (forEach p.linesInUse (ltReports p stamp) (forEach p.linesInUse (ltMarkLine p) t)) :=
    .forEach _ (fun _ _ hu => hu.ltReports) (.refl _)
  unfold ltMark
  rw [clear, line_of_keeps reports l, mark]
  by_cases h : l.val < p.lineCount <;> simp [h]

theorem marked_ltMark_line (p : Plan) (stamp : Word) (t : State) (l : Fin 24) (hl : l.val < p.lineCount)
    (h : (t.line l).turnsRunning p l) : Marked (ltMark p stamp t) (30 + l.val) := by
  have hE := stable_marked (fun _ _ => True) (30 + l.val)
  have h1 : Marked (forEach p.linesInUse (ltMarkLine p) t) (30 + l.val) :=
    forEach_event (fun t l => t.line l) (fun _ => True) (Marked · (30 + l.val)) (fun r => r.turnsRunning p l)
      (ltMarkLine p) (fun _ _ _ => trivial) (fun i k u _ h => line_ltMarkLine_ne p i k u h)
      (fun i u hu => hE.ltMarkLine p i trivial hu) p.linesInUse (nodup_linesInUse p) t trivial l
      ((mem_linesInUse p l).2 hl) h (fun u _ hu => marked_ltMarkLine p l u hu)
  exact hE.ltClearFrames _ (forEach_keeps (Marked · (30 + l.val)) _
    (fun k _ u hu => hE.ltReports p stamp k (fun _ _ => trivial) hu) h1)

/-- R10, R11, R13: what the blocks' work at a mark leaves of a line. -/
theorem line_frameWork (p : Plan) (stamp : Word) (t : State) (l : Fin 24) :
    (frameWork p stamp t).line l =
      if l.val < p.lineCount then ((t.line l).afterMark p l).newFrame else t.line l := by
  have after : KeepsAllBut (.guards :: swapParts) (ltMark p stamp (teMark p t)) (frameWork p stamp t) :=
    ((KeepsAllBut.refl _).zcMark).trans ((keeps_plMark p _).mono (by decide))
  rw [line_of_keeps after l, line_ltMark, line_of_keeps (KeepsAllBut.refl t).teMark (c := .taps :: statusParts) l]

theorem marked_frameWork_line (p : Plan) (stamp : Word) (t : State) (l : Fin 24) (hl : l.val < p.lineCount)
    (h : (t.line l).turnsRunning p l) : Marked (frameWork p stamp t) (30 + l.val) := by
  have hE := stable_marked (fun _ _ => True) (30 + l.val)
  refine hE.plMark p trivial (hE.zcMark p (fun _ _ => trivial) (marked_ltMark_line p stamp _ l hl ?_))
  rw [line_of_keeps (KeepsAllBut.refl t).teMark (c := .taps :: statusParts) l]
  exact h

/-! ### Guard records at a mark (R71 to R73) -/

/-- R73: what an unfed mark makes of the guard record of a zone that is LIVE or LAPSING. -/
def GuardRec.lapsed (e : Entries) (g : GuardRec) : GuardRec :=
  if e.watchFrames = 0 then { g with fed := 0 }
  else if g.miss + 1 < e.watchFrames then { g with state := .lapsing, miss := g.miss + 1, fed := 0 }
  else { g with state := .fallback, miss := e.watchFrames, fade := 7, fed := 0 }

/-- R71 to R73: what ZC's work at a mark makes of a zone's guard record. -/
def GuardRec.afterMark (p : Plan) (e : Entries) (g : GuardRec) : GuardRec :=
  if p.frameLen ≤ g.fed then
    match g.state with
    | .fallback => { g with state := .live, miss := 0, fed := 0, fade := 7 }
    | _ => { g with state := .live, miss := 0, fed := 0 }
  else
    match g.state with
    | .dormant => { g with miss := 0, fed := 0 }
    | .live => g.lapsed e
    | .lapsing => g.lapsed e
    | .fallback =>
      match e.mode with
      | .mute => { g with fed := 0 }
      | .fade => { g with fade := g.fade - 1, fed := 0 }

theorem guard_zcLapse_self (z : Fin 48) (t : State) :
    (zcLapse z t).guard z = (t.guard z).lapsed (t.store.effective z) := by
  unfold zcLapse GuardRec.lapsed
  dsimp only
  split
  · simp
  · split
    · split <;> simp
    · simp

theorem guard_zcMarkZone_self (p : Plan) (z : Fin 48) (t : State) :
    (zcMarkZone p z t).guard z = (t.guard z).afterMark p (t.store.effective z) := by
  unfold zcMarkZone GuardRec.afterMark
  split
  · unfold zcFed
    dsimp only
    cases (t.guard z).state <;> simp
  · unfold zcUnfed
    dsimp only
    cases (t.guard z).state
    case dormant => simp
    case live => exact guard_zcLapse_self z t
    case lapsing => exact guard_zcLapse_self z t
    case fallback => cases (t.store.effective z).mode <;> simp

theorem marked_zcLapse (z : Fin 48) (t : State)
    (h : ((t.guard z).lapsed (t.store.effective z)).state ≠ (t.guard z).state) :
    Marked (zcLapse z t) (54 + z.val) := by
  unfold zcLapse
  unfold GuardRec.lapsed at h
  dsimp only
  split at h
  · exact absurd rfl h
  · rename_i h0
    rw [if_neg h0]
    split at h
    · rename_i h1
      rw [if_pos h1, if_neg (fun e => h e.symm)]
      exact marked_statusChange _ _
    · rename_i h1
      rw [if_neg h1]
      exact marked_statusChange _ _

theorem marked_zcMarkZone (p : Plan) (z : Fin 48) (t : State)
    (h : ((t.guard z).afterMark p (t.store.effective z)).state ≠ (t.guard z).state) :
    Marked (zcMarkZone p z t) (54 + z.val) := by
  unfold zcMarkZone
  unfold GuardRec.afterMark at h
  split at h
  · rename_i hf
    rw [if_pos hf]
    unfold zcFed
    dsimp only
    cases hg : (t.guard z).state <;> rw [hg] at h
    case live => exact absurd rfl h
    all_goals exact marked_statusChange _ _
  · rename_i hf
    rw [if_neg hf]
    unfold zcUnfed
    dsimp only
    have hl := marked_zcLapse z t
    cases hg : (t.guard z).state <;> rw [hg] at h hl
    case dormant => exact absurd rfl h
    case live => exact hl h
    case lapsing => exact hl h
    case fallback =>
      dsimp only at h
      split at h <;> exact absurd rfl h

theorem store_zcMarkZone (p : Plan) (z : Fin 48) (t : State) : (zcMarkZone p z t).store = t.store :=
  store_of_keeps (c := zoneParts) ((KeepsAllBut.refl t).zcMarkZone)

theorem guard_zcMark (p : Plan) (t : State) (z : Fin 48) :
    (zcMark p t).guard z =
      if z.val < p.zoneCount then (t.guard z).afterMark p (t.store.effective z) else t.guard z := by
  have := forEach_record (fun t z => t.guard z) (fun u => u.store = t.store)
    (fun z g => g.afterMark p (t.store.effective z)) (zcMarkZone p)
    (fun i u hu => (store_zcMarkZone p i u).trans hu)
    (fun i u hu => by rw [guard_zcMarkZone_self, hu]) (fun i k u _ h => guard_zcMarkZone_ne p i k u h)
    p.zonesInUse (nodup_zonesInUse p) t rfl z
  simpa [zcMark] using this

theorem marked_zcMark (p : Plan) (t : State) (z : Fin 48) (h : ((zcMark p t).guard z).state ≠ (t.guard z).state) :
    Marked (zcMark p t) (54 + z.val) := by
  have hz : z.val < p.zoneCount := by
    by_contra hz
    rw [guard_zcMark, if_neg hz] at h
    exact h rfl
  rw [guard_zcMark, if_pos hz] at h
  have hE := stable_marked (fun _ _ => True) (54 + z.val)
  exact forEach_event (fun t z => t.guard z) (fun u => u.store = t.store) (Marked · (54 + z.val))
    (fun g => (g.afterMark p (t.store.effective z)).state ≠ g.state) (zcMarkZone p)
    (fun i u hu => (store_zcMarkZone p i u).trans hu) (fun i k u _ h => guard_zcMarkZone_ne p i k u h)
    (fun i u hu => hE.zcMarkZone p i trivial hu) p.zonesInUse (nodup_zonesInUse p) t rfl z ((mem_zonesInUse p z).2 hz) h
    (fun u hu hg => marked_zcMarkZone p z u (by rw [hu]; exact hg))

/-- R71 to R73: what the blocks' work at a mark leaves of a zone's guard record. -/
theorem guard_frameWork (p : Plan) (stamp : Word) (t : State) (z : Fin 48) :
    (frameWork p stamp t).guard z =
      if z.val < p.zoneCount then (t.guard z).afterMark p (t.store.effective z) else t.guard z := by
  have before : KeepsAllBut (.taps :: markParts) t (ltMark p stamp (teMark p t)) := (KeepsAllBut.refl t).teMark.ltMark
  unfold frameWork
  rw [guard_of_keeps (keeps_plMark p _) z, guard_zcMark, guard_of_keeps before z, store_of_keeps before]

theorem marked_frameWork_guard (p : Plan) (stamp : Word) (t : State) (z : Fin 48)
    (h : ((frameWork p stamp t).guard z).state ≠ (t.guard z).state) : Marked (frameWork p stamp t) (54 + z.val) := by
  have before : KeepsAllBut (.taps :: markParts) t (ltMark p stamp (teMark p t)) := (KeepsAllBut.refl t).teMark.ltMark
  refine (stable_marked (fun _ _ => True) (54 + z.val)).plMark p trivial (marked_zcMark p _ z ?_)
  rw [guard_of_keeps before z, ← guard_of_keeps (keeps_plMark p _) z]
  exact h

/-! ### The reports of a mark, sorted by kind -/

/-- The reports of a mark in the model's order: the recoveries of lines, the switches of areas, the changes of zones
and the swap. -/
def markRequests (p : Plan) (s : State) (switches swap : List Request) : List Request :=
  ((p.linesInUse.flatMap fun l => recoveryAsks p l (s.line l)) ++ switches) ++
    (p.zonesInUse.flatMap fun z => feedAsks p (s.store.effective z) z (s.guard z)) ++ swap

theorem of_mem_recoveryAsks {p : Plan} {l : Fin 24} {r : LineRec} {q : Request} (h : q ∈ recoveryAsks p l r) :
    q.kind = .lineRecovered ∧ q.subject = l.val := by
  unfold recoveryAsks at h
  split at h
  · rw [List.mem_singleton.1 h]; exact ⟨rfl, rfl⟩
  · simp at h

theorem of_mem_feedAsks {p : Plan} {e : Entries} {z : Fin 48} {g : GuardRec} {q : Request} (h : q ∈ feedAsks p e z g) :
    q.kind = .zoneState ∧ q.subject = z.val := by
  unfold feedAsks at h
  split at h
  · split at h
    · rw [List.mem_singleton.1 h]; exact ⟨rfl, rfl⟩
    · simp at h
  · split at h
    · rw [List.mem_singleton.1 h]; exact ⟨rfl, rfl⟩
    · simp at h

theorem of_mem_swapAsks {p : Plan} {s : State} {q : Request} (h : q ∈ swapAsks p s) :
    q.kind = .planSwapped ∧ q.subject = 0 ∧ s.loader.state = .waitingSwap := by
  unfold swapAsks at h
  split at h
  · split at h
    · simp at h
    · rw [List.mem_singleton.1 h]; exact ⟨rfl, rfl, by assumption⟩
  · simp at h

section
variable {p : Plan} {s : State} {se sw : List Request}

theorem of_mem_recoveries {q : Request} (h : q ∈ p.linesInUse.flatMap fun l => recoveryAsks p l (s.line l)) :
    q.kind = .lineRecovered ∧ q.subject < p.lineCount := by
  obtain ⟨l, hl, hq⟩ := List.mem_flatMap.1 h
  obtain ⟨hk, hn⟩ := of_mem_recoveryAsks hq
  exact ⟨hk, by rw [hn]; exact (mem_linesInUse p l).1 hl⟩

theorem of_mem_feeds {q : Request}
    (h : q ∈ p.zonesInUse.flatMap fun z => feedAsks p (s.store.effective z) z (s.guard z)) :
    q.kind = .zoneState ∧ q.subject < p.zoneCount := by
  obtain ⟨z, hz, hq⟩ := List.mem_flatMap.1 h
  obtain ⟨hk, hn⟩ := of_mem_feedAsks hq
  exact ⟨hk, by rw [hn]; exact (mem_zonesInUse p z).1 hz⟩

/-- Of the reports of a mark, the recoveries are those of the lines. -/
theorem requestsOf_lineRecovered (hse : ∀ q ∈ se, q.kind = .elected) (hsw : ∀ q ∈ sw, q.kind = .planSwapped)
    (l : Fin 24) : requestsOf .lineRecovered l.val (markRequests p s se sw) =
      if l.val < p.lineCount then recoveryAsks p l (s.line l) else [] := by
  unfold markRequests
  rw [requestsOf_append, requestsOf_append, requestsOf_append,
    requestsOf_none _ _ se fun q hq h => (by simp [hse q hq] at h),
    requestsOf_none _ _ sw fun q hq h => (by simp [hsw q hq] at h),
    requestsOf_none _ _ (p.zonesInUse.flatMap _) fun q hq h => (by simp [(of_mem_feeds hq).1] at h)]
  simp only [List.append_nil]
  split
  · rename_i hl
    exact requestsOf_flatMap .lineRecovered (fun l : Fin 24 => l.val) (fun _ _ => Fin.ext)
      (fun l => recoveryAsks p l (s.line l)) (fun l q hq => of_mem_recoveryAsks hq) _ (nodup_linesInUse p) l
      ((mem_linesInUse p l).2 hl)
  · exact requestsOf_none _ _ _ fun q hq h => by have := (of_mem_recoveries hq).2; omega

/-- Of the reports of a mark, the changes of zones are those of the zones. -/
theorem requestsOf_zoneState (hse : ∀ q ∈ se, q.kind = .elected) (hsw : ∀ q ∈ sw, q.kind = .planSwapped)
    (z : Fin 48) : requestsOf .zoneState z.val (markRequests p s se sw) =
      if z.val < p.zoneCount then feedAsks p (s.store.effective z) z (s.guard z) else [] := by
  unfold markRequests
  rw [requestsOf_append, requestsOf_append, requestsOf_append,
    requestsOf_none _ _ se fun q hq h => (by simp [hse q hq] at h),
    requestsOf_none _ _ sw fun q hq h => (by simp [hsw q hq] at h),
    requestsOf_none _ _ (p.linesInUse.flatMap _) fun q hq h => (by simp [(of_mem_recoveries hq).1] at h)]
  simp only [List.append_nil, List.nil_append]
  split
  · rename_i hz
    exact requestsOf_flatMap .zoneState (fun z : Fin 48 => z.val) (fun _ _ => Fin.ext)
      (fun z => feedAsks p (s.store.effective z) z (s.guard z)) (fun z q hq => of_mem_feedAsks hq) _
      (nodup_zonesInUse p) z ((mem_zonesInUse p z).2 hz)
  · exact requestsOf_none _ _ _ fun q hq h => by have := (of_mem_feeds hq).2; omega

/-- Of the reports of a mark, the switches of areas are the election's. -/
theorem requestsOf_elected (hsw : ∀ q ∈ sw, q.kind = .planSwapped) (n : Nat) :
    requestsOf .elected n (markRequests p s se sw) = requestsOf .elected n se := by
  unfold markRequests
  rw [requestsOf_append, requestsOf_append, requestsOf_append,
    requestsOf_none _ _ sw fun q hq h => (by simp [hsw q hq] at h),
    requestsOf_none _ _ (p.linesInUse.flatMap _) fun q hq h => (by simp [(of_mem_recoveries hq).1] at h),
    requestsOf_none _ _ (p.zonesInUse.flatMap _) fun q hq h => (by simp [(of_mem_feeds hq).1] at h)]
  simp

end

/-! ### The answer to a frame mark -/

/-- What a frame mark leaves once its word waits for memory. -/
def marked (p : Plan) (stamp : Word) (s : State) : State :=
  startTreatment (s.coreWord 8 stamp) [] (plainTreatment (s.coreWord 8 stamp)) (frameWork p stamp (s.stamped stamp))

section
variable (p : Plan) (stamp : Word) (s : State)

theorem line_marked (l : Fin 24) : (marked p stamp s).line l =
    if l.val < p.lineCount then ((s.line l).afterMark p l).newFrame else s.line l := by
  obtain ⟨_, _, _, _, hline, _⟩ := stamped_records s stamp
  exact (line_frameWork p stamp _ l).trans (by rw [hline])

theorem guard_marked (z : Fin 48) : (marked p stamp s).guard z =
    if z.val < p.zoneCount then (s.guard z).afterMark p (s.store.effective z) else s.guard z := by
  obtain ⟨_, _, _, hguard, _, hstore, _⟩ := stamped_records s stamp
  exact (guard_frameWork p stamp _ z).trans (by rw [hguard, hstore])

theorem marked_of_frameWork {off : Nat} (h : Marked (frameWork p stamp (s.stamped stamp)) off) :
    Marked (marked p stamp s) off := h.congr rfl rfl

theorem stores_marked : Stores s (marked p stamp s) (s.coreWord 8 stamp) stamp frameMarkParts := by
  have hs : KeepsAllBut frameMarkParts (awLook (s.coreWord 8 stamp) s) (s.stamped stamp) :=
    fun q hq => by cases q <;> first | rfl | exact absurd (by decide) hq
  exact stores_plain s _ .core _ stamp frameMarkParts
    ((hs.trans (keeps_frameWork p stamp _)).mono fun q hq => List.mem_cons_of_mem _ hq)

theorem lastStamp_marked : (marked p stamp s).command.lastStamp = stamp := by
  have h : AsksAt stamp (s.stamped stamp) [] (s.stamped stamp) := ⟨rfl, asks_refl _ _⟩
  obtain ⟨se, hse, _⟩ := frameWork_asks p stamp (s.stamped stamp) h
  exact hse.1

/-- The mark's reports, as `MarkAsks` has them, from the requests made on the way. -/
theorem markAsks_of {se sw : List Request} (hse : ∀ q ∈ se, q.kind = .elected ∧ q.subject < p.areaCount)
    (hsw : ∀ q ∈ sw, q.kind = .planSwapped ∧ q.subject = 0 ∧ s.loader.state = .waitingSwap)
    (h : AsksAt stamp (s.looked (s.coreWord 8 stamp)) (markRequests p s se sw) (frameWork p stamp (s.stamped stamp))) :
    MarkAsks p stamp s (marked p stamp s) (markRequests p s se sw) := by
  refine ⟨h.2.record, fun q hq => ?_⟩
  unfold markRequests at hq
  simp only [List.mem_append] at hq
  rcases hq with ((hq | hq) | hq) | hq
  · exact .inl (of_mem_recoveries hq)
  · exact .inr (.inl (hse q hq))
  · exact .inr (.inr (.inl (of_mem_feeds hq)))
  · exact .inr (.inr (.inr (hsw q hq)))

/-- The reports of a mark (`frameWork_asks`), as told from the state before it. -/
theorem marked_asks : ∃ se sw, MarkAsks p stamp s (marked p stamp s) (markRequests p s se sw) ∧
    (∀ q ∈ se, q.kind = .elected) ∧ ∀ q ∈ sw, q.kind = .planSwapped := by
  obtain ⟨hload, _, _, hguard, hline, hstore, _⟩ := stamped_records s stamp
  have h0 : AsksAt stamp (s.looked (s.coreWord 8 stamp)) [] (s.stamped stamp) :=
    ⟨rfl, (asks_refl stamp _).record⟩
  obtain ⟨se, h, hse⟩ := frameWork_asks p stamp _ h0
  have keeps : KeepsAllBut (.taps :: .guards :: markParts) (s.stamped stamp)
      (zcMark p (ltMark p stamp (teMark p (s.stamped stamp)))) := (KeepsAllBut.refl _).teMark.ltMark.zcMark
  have hst : (zcMark p (ltMark p stamp (teMark p (s.stamped stamp)))).loader.state = s.loader.state :=
    Eq.trans (keeps .loadState (by decide)) (by rw [hload])
  simp only [hguard, hline, hstore] at h
  refine ⟨se, _, markAsks_of p stamp s hse (fun q hq => ?_) h, fun q hq => (hse q hq).1,
    fun q hq => (of_mem_swapAsks hq).1⟩
  have := of_mem_swapAsks hq
  rw [hst] at this
  exact this

end

/-! ### O5 and O17 -/

/-- The recovery of a line is asked for exactly where its count suffices after a clean frame. -/
theorem cleanFrame_iff (r : LineRec) : r.cleanFrame = true ↔ r.writeSeen = true ∧ r.jumpSeen = false := by
  simp [LineRec.cleanFrame]

/-- Settles O5: LT's record after a mark by the line's condition, and its recovery among the mark's reports. -/
theorem frameMarkOnLines : Obligations.FrameMarkOnLines := by
  unfold Obligations.FrameMarkOnLines
  intro s p stamp c hc h hl
  obtain ⟨se, sw, hasks, hse, hsw⟩ := marked_asks p stamp s
  refine ⟨marked p stamp s, _, exec_frameMark hc h hl, lastStamp_marked p stamp s, stores_marked p stamp s, hasks,
    fun l => ?_⟩
  dsimp only
  rw [line_marked, requestsOf_lineRecovered hse hsw]
  have mark (hu : l.val < p.lineCount) (ht : (s.line l).turnsRunning p l) : Marked (marked p stamp s) (30 + l.val) := by
    obtain ⟨_, _, _, _, hline, _⟩ := stamped_records s stamp
    exact marked_of_frameWork p stamp s (marked_frameWork_line p stamp _ l hu (by rw [hline]; exact ht))
  refine ⟨fun hu => ?_, fun hu => ?_⟩
  · rw [if_neg (by omega), if_neg (by omega)]
    exact ⟨rfl, rfl⟩
  rw [if_pos hu, if_pos hu]
  refine ⟨fun hi => ?_, fun hi => ?_, fun hi => ?_, fun hi hn => ?_, fun hi hw hj hq => ?_, fun hi hw hj hq => ?_⟩
  · simp [LineRec.afterMark, recoveryAsks, hi]
  · refine ⟨?_, mark hu (.inl hi), ?_⟩
    · simp [LineRec.afterMark, LineRec.newFrame, LineRec.latched, hi]
    · simp [recoveryAsks, hi]
  · simp [LineRec.afterMark, LineRec.newFrame, LineRec.latched, recoveryAsks, hi]
  · have hc : ¬ (s.line l).cleanFrame = true := by
      rw [cleanFrame_iff]
      rcases hn with hn | hn <;> simp [hn]
    refine ⟨?_, ?_⟩
    · simp [LineRec.afterMark, hi, hc, LineRec.newFrame, LineRec.latched]
    · rw [recoveryAsks, if_neg fun h => hc ((cleanFrame_iff _).2 ⟨h.2.1, h.2.2.1⟩)]
  · have hc : (s.line l).cleanFrame = true := (cleanFrame_iff _).2 ⟨hw, hj⟩
    refine ⟨?_, ?_⟩
    · simp [LineRec.afterMark, hi, hc, Nat.not_le.2 hq, LineRec.newFrame, LineRec.latched]
    · rw [recoveryAsks, if_neg fun h => absurd h.2.2.2 (Nat.not_le.2 hq)]
  · have hc : (s.line l).cleanFrame = true := (cleanFrame_iff _).2 ⟨hw, hj⟩
    refine ⟨?_, mark hu (.inr ⟨hi, hc, hq⟩), ?_⟩
    · simp [LineRec.afterMark, hi, hc, hq, LineRec.newFrame, LineRec.latched]
    · rw [recoveryAsks, if_pos ⟨hi, hw, hj, hq⟩]

/-- Settles O17: ZC's record after a mark by whether the zone was fed and its state, and its report among the mark's. -/
theorem frameMarkOnGuards : Obligations.FrameMarkOnGuards := by
  unfold Obligations.FrameMarkOnGuards
  intro s p stamp c hc h hl
  obtain ⟨se, sw, hasks, hse, hsw⟩ := marked_asks p stamp s
  refine ⟨marked p stamp s, _, exec_frameMark hc h hl, hasks, fun z => ?_⟩
  have mark (ht : ((marked p stamp s).guard z).state ≠ (s.guard z).state) : Marked (marked p stamp s) (54 + z.val) := by
    obtain ⟨_, _, _, hguard, _, _, _⟩ := stamped_records s stamp
    exact marked_of_frameWork p stamp s (marked_frameWork_guard p stamp _ z (by rw [hguard]; exact ht))
  dsimp only
  refine ⟨fun hu => ?_, fun hu hf => ?_, fun hu hf => ?_, mark⟩
  all_goals rw [guard_marked, requestsOf_zoneState hse hsw]
  · rw [if_neg (by omega), if_neg (by omega)]
    exact ⟨rfl, rfl⟩
  all_goals rw [if_pos hu, if_pos hu]
  · rw [feedAsks, GuardRec.afterMark, if_pos hf, if_pos hf]
    refine ⟨fun hg => ?_, fun hg => ?_⟩
    · rw [if_neg hg]
      refine ⟨?_, rfl⟩
      cases hs : (s.guard z).state
      case fallback => exact absurd hs hg
      all_goals rfl
    · simp [hg]
  · rw [feedAsks, GuardRec.afterMark, if_neg (by omega), if_neg (by omega)]
    refine ⟨fun hg => ?_, fun hg hw => ?_, fun hg hw => ?_, fun hg h0 hw => ?_, fun hg hm => ?_, fun hg hm => ?_⟩
    · simp [hg]
    · rcases hg with hg | hg <;> simp [hg, hw, GuardRec.lapsed]
    · have h0 : (s.store.effective z).watchFrames ≠ 0 := by omega
      rcases hg with hg | hg <;> simp [hg, h0, GuardRec.lapsed, hw, Nat.not_le.2 hw]
    · have hn : ¬ (s.guard z).miss + 1 < (s.store.effective z).watchFrames := by omega
      rcases hg with hg | hg <;> simp [hg, h0, GuardRec.lapsed, hw, hn]
    · simp [hg, hm]
    · simp [hg, hm]

end Sys2Proof.Machine
end

section
/-!
PROOFS. What a decision of SE leaves (2.4), and how the level reports of a mark fill an area's collection until its last
candidate's report completes it and it is decided (R24, R27, R28): the state between two level reports is `MarkRun`.
-/
namespace Sys2Proof.Machine

-- one theorem after another, as in the tests: side by side they take more threads than the memory limit allows
set_option Elab.async false

/-! ### A decision (R28 to R32) -/

/-- A switch is to another source. -/
theorem switch_ne {p : Plan} {a : Fin 8} {r : AreaRec} {x : Option (Fin 8)} (h : verdict p a r = .switch x) :
    x ≠ r.elected := by
  cases x with
  | none => exact fun e => switch_none_elected h e.symm
  | some d =>
    intro e
    have hd := switch_mem h
    rw [verdict_challenge e.symm hd] at h
    unfold challenge at h
    split at h
    · cases h
    · rename_i b hb
      split at h
      · cases h
        simpa using List.of_mem_filter (loudest_mem hb)
      · cases h

/-- The switch a decision makes from a weighed record, if it makes one. -/
def decidedSwitch (p : Plan) (a : Fin 8) (w : AreaRec) : Option (Option (Fin 8)) :=
  if w.pin.isSome then none
  else
    match verdict p a w with
    | .keep _ => none
    | .switch x => some x

/-- The record a decision makes of a weighed record. -/
def decidedRecord (p : Plan) (a : Fin 8) (w : AreaRec) : AreaRec :=
  if w.pin.isSome then w
  else
    match verdict p a w with
    | .keep q => { w with quiet := q }
    | .switch x => { w with elected := x, dwell := 0, quiet := 0 }

/-- The report of a decision (R31). -/
def decisionAsks (a : Fin 8) (w : AreaRec) (switch : Option (Option (Fin 8))) : List Request :=
  match switch with
  | none => []
  | some x => [⟨.elected, a.val, word (sourceCode w.elected), word (sourceCode x)⟩]

/-- R32, R50: a tap record after a notice, if its area's switch sends one. -/
def TapRec.toldOf (p : Plan) (z : Fin 48) (r : TapRec) (switch : Option (Option (Fin 8))) : TapRec :=
  match switch with
  | some (some i) => { r with pendingTarget := noticed r (p.rowEntry z.val i.val) }
  | some none => r
  | none => r

theorem decided_pinned {p : Plan} {a : Fin 8} {w : AreaRec} (h : w.pin ≠ none) :
    decidedSwitch p a w = none ∧ decidedRecord p a w = w := by
  have hp := Option.isSome_iff_ne_none.2 h
  simp [decidedSwitch, decidedRecord, hp]

theorem decided_keep {p : Plan} {a : Fin 8} {w : AreaRec} {q : Nat} (h : w.pin = none) (hv : verdict p a w = .keep q) :
    decidedSwitch p a w = none ∧ decidedRecord p a w = { w with quiet := q } := by
  simp [decidedSwitch, decidedRecord, h, hv]

theorem decided_switch {p : Plan} {a : Fin 8} {w : AreaRec} {x : Option (Fin 8)} (h : w.pin = none)
    (hv : verdict p a w = .switch x) : decidedSwitch p a w = some x ∧
      decidedRecord p a w = { w with elected := x, dwell := 0, quiet := 0 } := by
  simp [decidedSwitch, decidedRecord, h, hv]

/-- The source after a decision is the switch's, and the switch is to another source. -/
theorem elected_decidedRecord (p : Plan) (a : Fin 8) (w : AreaRec) :
    (∀ x, decidedSwitch p a w = some x → (decidedRecord p a w).elected = x ∧ x ≠ w.elected) ∧
      (decidedSwitch p a w = none → (decidedRecord p a w).elected = w.elected) := by
  by_cases hp : w.pin = none
  · cases hv : verdict p a w with
    | keep q =>
      obtain ⟨hs, hr⟩ := decided_keep hp hv
      rw [hs, hr]
      exact ⟨fun x hx => (by cases hx), fun _ => rfl⟩
    | switch x =>
      obtain ⟨hs, hr⟩ := decided_switch hp hv
      rw [hs, hr]
      exact ⟨fun y hy => by cases hy; exact ⟨rfl, switch_ne hv⟩, fun h => (by cases h)⟩
  · obtain ⟨hs, hr⟩ := decided_pinned (p := p) (a := a) hp
    rw [hs, hr]
    exact ⟨fun x hx => (by cases hx), fun _ => rfl⟩

theorem pin_decidedRecord (p : Plan) (a : Fin 8) (w : AreaRec) : (decidedRecord p a w).pin = w.pin := by
  unfold decidedRecord
  split
  · rfl
  · split <;> rfl

section
variable (p : Plan) (a : Fin 8) (t : State)

theorem seSwitch_eq (r : AreaRec) (x : Option (Fin 8)) : seSwitch p a r x t =
    forEach (match x with | none => [] | some _ => p.zonesOf a)
      (fun z => teNotice z (match x with | none => 0 | some i => p.rowEntry z.val i.val))
      (((t.setArea a { r with elected := x, dwell := 0, quiet := 0 }).request .elected a.val
        (word (sourceCode r.elected)) (word (sourceCode x))).statusChange (areaOffset a)) := by
  unfold seSwitch
  cases x <;> rfl

theorem keeps_notices (l : List (Fin 48)) (d : Fin 48 → Nat) :
    KeepsAllBut (.taps :: statusParts) t (forEach l (fun z => teNotice z (d z)) t) :=
  .forEach _ (fun _ _ hu => hu.teNotice) (.refl t)

theorem area_seSwitch (r : AreaRec) (x : Option (Fin 8)) (k : Fin 8) : (seSwitch p a r x t).area k =
    if k = a then { r with elected := x, dwell := 0, quiet := 0 } else t.area k := by
  rw [seSwitch_eq, area_of_keeps (keeps_notices _ _ _) k]
  simp [area_setArea]

theorem tap_seSwitch (r : AreaRec) (x : Option (Fin 8)) (z : Fin 48) : (seSwitch p a r x t).tap z =
    if z ∈ p.zonesOf a then (t.tap z).toldOf p z (some x) else t.tap z := by
  cases x with
  | none =>
    show State.tap (State.statusChange _ _) z = _
    simp [TapRec.toldOf]
  | some i =>
    show State.tap (forEach (p.zonesOf a) (fun z => teNotice z (p.rowEntry z.val i.val)) _) z = _
    rw [tap_notices _ (nodup_zonesOf p a)]
    simp only [tap_statusChange, tap_request, tap_setArea]
    rfl

theorem marked_seSwitch (r : AreaRec) (x : Option (Fin 8)) : Marked (seSwitch p a r x t) (22 + a.val) := by
  rw [seSwitch_eq]
  exact forEach_keeps (Marked · (22 + a.val)) _ (fun z _ u hu => hu.teNotice _ _) (marked_statusChange _ _)

theorem seSwitch_asks {stamp : Word} {s : State} {m : List Request} (r : AreaRec) (x : Option (Fin 8))
    (h : AsksAt stamp s m t) : AsksAt stamp s (m ++ decisionAsks a r (some x)) (seSwitch p a r x t) := by
  rw [seSwitch_eq]
  have hE := stable_asksAt stamp s (m ++ decisionAsks a r (some x))
  exact forEach_keeps (AsksAt stamp s (m ++ decisionAsks a r (some x))) _ (fun z _ u hu => hE.teNotice _ _ hu)
    (hE.statusChange _ (((stable_asksAt stamp s m).record h).request _ _ _ _))

/-- A decision by the three ways it goes: pinned, kept, switched. -/
theorem seDecide_cases (P : State → Prop)
    (hkeep : ∀ r, decidedSwitch p a (weighed p a (t.area a)) = none →
      r = decidedRecord p a (weighed p a (t.area a)) → P (t.setArea a r))
    (hswitch : ∀ x, decidedSwitch p a (weighed p a (t.area a)) = some x →
      decidedRecord p a (weighed p a (t.area a)) =
        { weighed p a (t.area a) with elected := x, dwell := 0, quiet := 0 } →
      P (seSwitch p a (weighed p a (t.area a)) x t)) : P (seDecide p a t) := by
  unfold seDecide
  dsimp only
  by_cases hp : (weighed p a (t.area a)).pin.isSome = true
  · obtain ⟨hs, hr⟩ := decided_pinned (p := p) (a := a) (Option.isSome_iff_ne_none.1 hp)
    rw [if_pos hp]
    exact hkeep _ hs hr.symm
  · have hn : (weighed p a (t.area a)).pin = none := by simpa using hp
    rw [if_neg hp]
    cases hv : verdict p a (weighed p a (t.area a)) with
    | keep q =>
      obtain ⟨hs, hr⟩ := decided_keep hn hv
      exact hkeep _ hs hr.symm
    | switch x =>
      obtain ⟨hs, hr⟩ := decided_switch hn hv
      exact hswitch x hs hr

theorem area_seDecide (k : Fin 8) : (seDecide p a t).area k =
    if k = a then decidedRecord p a (weighed p a (t.area a)) else t.area k := by
  refine seDecide_cases p a t (fun u => u.area k = _) (fun r _ hr => ?_) (fun x _ hr => ?_)
  · rw [area_setArea, hr]
  · rw [area_seSwitch, hr]

theorem tap_seDecide (z : Fin 48) : (seDecide p a t).tap z =
    if z ∈ p.zonesOf a then (t.tap z).toldOf p z (decidedSwitch p a (weighed p a (t.area a))) else t.tap z := by
  refine seDecide_cases p a t (fun u => u.tap z = _) (fun r hs _ => ?_) (fun x hs _ => ?_)
  · rw [hs]
    simp [TapRec.toldOf]
  · rw [tap_seSwitch, hs]

theorem marked_seDecide {x : Option (Fin 8)} (h : decidedSwitch p a (weighed p a (t.area a)) = some x) :
    Marked (seDecide p a t) (22 + a.val) := by
  refine seDecide_cases p a t (Marked · (22 + a.val)) (fun r hs _ => ?_) (fun x _ _ => marked_seSwitch p a t _ x)
  rw [hs] at h
  cases h

theorem seDecide_asks {stamp : Word} {s : State} {m : List Request} (h : AsksAt stamp s m t) :
    AsksAt stamp s (m ++ decisionAsks a (t.area a) (decidedSwitch p a (weighed p a (t.area a)))) (seDecide p a t) := by
  refine seDecide_cases p a t (AsksAt stamp s _) (fun r hs _ => ?_) (fun x hs _ => ?_)
  · rw [hs]
    simpa [decisionAsks] using (stable_asksAt stamp s m).record h
  · rw [hs]
    exact seSwitch_asks p a t _ x h

theorem area_seDecideAndEmpty (k : Fin 8) : (seDecideAndEmpty p a t).area k =
    if k = a then (decidedRecord p a (weighed p a (t.area a))).emptied else t.area k := by
  unfold seDecideAndEmpty
  dsimp only
  rw [area_setArea]
  split
  · rw [area_seDecide, if_pos rfl]
  · rename_i hk
    rw [area_seDecide, if_neg hk]

theorem tap_seDecideAndEmpty (z : Fin 48) : (seDecideAndEmpty p a t).tap z =
    if z ∈ p.zonesOf a then (t.tap z).toldOf p z (decidedSwitch p a (weighed p a (t.area a))) else t.tap z :=
  tap_seDecide p a t z

end

/-! ### A level report (R24 to R27) -/

section
variable {p : Plan} {a : Fin 8} {t : State}

/-- In SERVICE a level report of the collection's own frame is filed, and completes the collection or does not. -/
theorem seTake_filed {i : Fin 8} {stamp : Word} {l : Level} (hd : t.command.device = .service)
    (hc : (t.area a).closedBy stamp = false) :
    seTake p a i stamp l t =
      if ((t.area a).filed i stamp l).complete p a then
        seDecideAndEmpty p a (t.setArea a ((t.area a).filed i stamp l))
      else t.setArea a ((t.area a).filed i stamp l) := by
  unfold seTake
  rw [if_pos hd]
  simp [hc]

theorem area_seTake_ne (i : Fin 8) (stamp : Word) (l : Level) {k : Fin 8} (hk : k ≠ a) :
    (seTake p a i stamp l t).area k = t.area k := by
  have empty (u : State) : (seDecideAndEmpty p a u).area k = u.area k := by rw [area_seDecideAndEmpty, if_neg hk]
  unfold seTake
  split
  · dsimp only
    have first : (if (t.area a).closedBy stamp then seDecideAndEmpty p a t else t).area k = t.area k := by
      split
      · exact empty t
      · rfl
    generalize (if (t.area a).closedBy stamp then seDecideAndEmpty p a t else t) = v at first ⊢
    split
    · rw [empty, area_setArea_ne _ _ _ _ hk, first]
    · rw [area_setArea_ne _ _ _ _ hk, first]
  · rfl

theorem tap_seTake_ne (i : Fin 8) (stamp : Word) (l : Level) {z : Fin 48} (hz : z ∉ p.zonesOf a) :
    (seTake p a i stamp l t).tap z = t.tap z := by
  have empty (u : State) : (seDecideAndEmpty p a u).tap z = u.tap z := by rw [tap_seDecideAndEmpty, if_neg hz]
  unfold seTake
  split
  · dsimp only
    have first : (if (t.area a).closedBy stamp then seDecideAndEmpty p a t else t).tap z = t.tap z := by
      split
      · exact empty t
      · rfl
    generalize (if (t.area a).closedBy stamp then seDecideAndEmpty p a t else t) = v at first ⊢
    split
    · rw [empty, tap_setArea, first]
    · rw [tap_setArea, first]
  · rfl

end

/-! ### The level reports of a mark, one by one (R12) -/

theorem forEach_append {α : Type} (f : α → State → State) (l m : List α) (t : State) :
    forEach (l ++ m) f t = forEach m f (forEach l f t) := List.foldl_append ..

theorem forEach_map {α β : Type} (g : α → β) (f : β → State → State) (l : List α) (t : State) :
    forEach (l.map g) f t = forEach l (fun x => f (g x)) t := List.foldl_map ..

/-- Who reports to whom at a mark, in the model's order (assumption log 30). -/
def reportPairs (p : Plan) : List (Fin 24 × Fin 8) :=
  (p.linesInUse.filter fun l => p.lineRole l.val = 1) ×ˢ p.areasInUse

theorem forEach_ltReports (p : Plan) (stamp : Word) (ls : List (Fin 24)) (t : State) :
    forEach ls (ltReports p stamp) t =
      forEach ((ls.filter fun l => p.lineRole l.val = 1) ×ˢ p.areasInUse) (fun x => ltReportTo p stamp x.1 x.2) t := by
  induction ls generalizing t with
  | nil => rfl
  | cons l ls ih =>
    rw [forEach_cons, ih]
    unfold ltReports
    by_cases hl : p.lineRole l.val = 1
    · rw [if_pos hl, List.filter_cons_of_pos (by simpa using hl), List.product_cons, forEach_append, forEach_map]
    · rw [if_neg hl, List.filter_cons_of_neg (by simpa using hl)]

theorem nodup_reportPairs (p : Plan) : (reportPairs p).Nodup :=
  ((nodup_linesInUse p).filter _).product (nodup_areasInUse p)

theorem mem_reportPairs (p : Plan) (l : Fin 24) (a : Fin 8) :
    (l, a) ∈ reportPairs p ↔ (l.val < p.lineCount ∧ p.lineRole l.val = 1) ∧ a.val < p.areaCount := by
  simp [reportPairs, List.mem_product]

/-- What the checks say of the candidates of the areas in use (R106). -/
structure CandidatesOk (p : Plan) : Prop where
  lineCount : p.lineCount ≤ 24
  candCount : ∀ a : Fin 8, a.val < p.areaCount → p.candCount a.val ≤ 8
  candLine : ∀ a i : Fin 8, a.val < p.areaCount → i.val < p.candCount a.val →
    p.candLine a.val i.val < p.lineCount ∧ p.lineRole (p.candLine a.val i.val) = 1
  distinct : ∀ a i k : Fin 8, a.val < p.areaCount → i.val < p.candCount a.val → k.val < p.candCount a.val →
    p.candLine a.val i.val = p.candLine a.val k.val → i = k

theorem candidatesOk_of_pass {straps : BitVec 6} {live : Option Plan} {p : Plan}
    (h : planResult straps live p = .pass) : CandidatesOk p where
  lineCount := (counts_of_pass h).1
  candCount _ ha := (area_of_pass h ha).1
  candLine _ i ha hi := (area_of_pass h ha).2.2.1 i.val hi
  distinct a i k ha hi hk e := by
    obtain ⟨_, _, _, hd⟩ := area_of_pass h ha
    rcases Nat.lt_trichotomy i.val k.val with hlt | heq | hgt
    · exact absurd e (hd k.val i.val hk hlt)
    · exact Fin.ext heq
    · exact absurd e.symm (hd i.val k.val hi hgt)

/-- The line of a candidate index. -/
def candidate (p : Plan) (a i : Fin 8) : Fin 24 := lineNo (p.candLine a.val i.val)

namespace CandidatesOk

variable {p : Plan} {a i : Fin 8}

theorem candidate_val (h : CandidatesOk p) (ha : a.val < p.areaCount) (hi : i.val < p.candCount a.val) :
    (candidate p a i).val = p.candLine a.val i.val := by
  have := (h.candLine a i ha hi).1
  have := h.lineCount
  exact Nat.mod_eq_of_lt (by omega)

theorem candidate_inj (h : CandidatesOk p) (ha : a.val < p.areaCount) (hi : i.val < p.candCount a.val) {k : Fin 8}
    (hk : k.val < p.candCount a.val) (e : candidate p a i = candidate p a k) : i = k :=
  h.distinct a i k ha hi hk (by rw [← h.candidate_val ha hi, ← h.candidate_val ha hk, e])

theorem candidate_mem (h : CandidatesOk p) (ha : a.val < p.areaCount) (hi : i.val < p.candCount a.val) :
    (candidate p a i, a) ∈ reportPairs p := by
  rw [mem_reportPairs, h.candidate_val ha hi]
  exact ⟨h.candLine a i ha hi, ha⟩

theorem index_some (h : CandidatesOk p) (ha : a.val < p.areaCount) {l : Fin 24} (he : p.candidateIndex a l = some i) :
    i.val < p.candCount a.val ∧ candidate p a i = l := by
  have hm := List.mem_of_find?_eq_some he
  have hl := List.find?_some he
  have hi := (mem_candidates p a i).1 hm
  exact ⟨hi, Fin.ext ((h.candidate_val ha hi).trans (by simpa using hl))⟩

theorem index_none (h : CandidatesOk p) (ha : a.val < p.areaCount) {l : Fin 24} (he : p.candidateIndex a l = none)
    (hi : i.val < p.candCount a.val) : candidate p a i ≠ l := by
  intro e
  have := List.find?_eq_none.1 he i ((mem_candidates p a i).2 hi)
  rw [← e, h.candidate_val ha hi] at this
  simp at this

end CandidatesOk

/-- The candidate of an index has reported, where these reports are still to come. -/
def reported (p : Plan) (a : Fin 8) (rest : List (Fin 24 × Fin 8)) (i : Fin 8) : Bool :=
  a.val < p.areaCount && i.val < p.candCount a.val && !(rest.contains (candidate p a i, a))

/-- Every candidate of an area in use that has candidates has reported. -/
def finished (p : Plan) (a : Fin 8) (rest : List (Fin 24 × Fin 8)) : Bool :=
  a.val < p.areaCount && 0 < p.candCount a.val && (p.candidates a).all (reported p a rest)

theorem reported_iff {p : Plan} {a : Fin 8} {rest : List (Fin 24 × Fin 8)} {i : Fin 8} : reported p a rest i = true ↔
    a.val < p.areaCount ∧ i.val < p.candCount a.val ∧ (candidate p a i, a) ∉ rest := by
  simp [reported, and_assoc]

theorem finished_iff {p : Plan} {a : Fin 8} {rest : List (Fin 24 × Fin 8)} : finished p a rest = true ↔
    a.val < p.areaCount ∧ 0 < p.candCount a.val ∧ ∀ i : Fin 8, i.val < p.candCount a.val →
      (candidate p a i, a) ∉ rest := by
  simp only [finished, Bool.and_eq_true, decide_eq_true_eq, List.all_eq_true, mem_candidates, reported_iff, and_assoc]
  constructor
  · exact fun ⟨ha, h0, h⟩ => ⟨ha, h0, fun i hi => (h i hi).2.2⟩
  · exact fun ⟨ha, h0, h⟩ => ⟨ha, h0, fun i hi => ⟨ha, hi, h i hi⟩⟩

/-- An area's record while its candidates report, these reports being still to come. -/
def collecting (p : Plan) (a : Fin 8) (stamp : Word) (s : State) (rest : List (Fin 24 × Fin 8)) : AreaRec :=
  { s.area a with
    stamp := if (List.finRange 8).any (reported p a rest) then some stamp else none
    collection := Vector.ofFn fun i => if reported p a rest i then some (markLevel p a i s) else none }

section
variable {p : Plan} {a : Fin 8} {stamp : Word} {s : State} {rest : List (Fin 24 × Fin 8)}

theorem closedBy_collecting : (collecting p a stamp s rest).closedBy stamp = false := by
  unfold AreaRec.closedBy collecting
  dsimp only
  split
  · rfl
  · rename_i x hx
    split at hx <;> cases hx
    simp

theorem complete_collecting (ha : a.val < p.areaCount) (h0 : 0 < p.candCount a.val) :
    (collecting p a stamp s rest).complete p a = finished p a rest := by
  rw [Bool.eq_iff_iff]
  unfold AreaRec.complete collecting finished
  simp only [List.all_eq_true, mem_candidates, Bool.and_eq_true, decide_eq_true_eq, ha, h0, true_and, Vector.getElem_ofFn]
  refine forall_congr' fun i => forall_congr' fun hi => ?_
  cases reported p a rest i <;> simp

/-- Before any report an area that collects nothing is as it was. -/
theorem collecting_start (hc : (s.area a).collectsNothing) (h : ∀ i, reported p a rest i = false) :
    collecting p a stamp s rest = s.area a := by
  obtain ⟨hst, hcol⟩ := hc
  have hv : (Vector.ofFn fun i => if reported p a rest i then some (markLevel p a i s) else none) =
      Vector.replicate 8 none := by
    ext i hi
    simp [h]
  unfold collecting
  rw [hv]
  simp only [h, List.any_eq_true, Bool.false_eq_true, and_false, exists_false, if_false]
  rw [← hst, ← hcol]

/-- A report filed is one more of the collection. -/
theorem filed_collecting (hok : CandidatesOk p) {l : Fin 24} {i : Fin 8} (ha : a.val < p.areaCount)
    (hi : i.val < p.candCount a.val) (hl : candidate p a i = l) (hn : (l, a) ∉ rest) :
    (collecting p a stamp s ((l, a) :: rest)).filed i stamp (markLevel p a i s) = collecting p a stamp s rest := by
  have self : reported p a rest i = true := reported_iff.2 ⟨ha, hi, by rw [hl]; exact hn⟩
  have other (k : Fin 8) (hk : k ≠ i) : reported p a ((l, a) :: rest) k = reported p a rest k := by
    rw [Bool.eq_iff_iff, reported_iff, reported_iff]
    refine and_congr_right fun _ => and_congr_right fun hkc => ?_
    have : candidate p a k ≠ l := fun e => hk (hok.candidate_inj ha hkc hi (e.trans hl.symm))
    simp [this]
  have hany : (List.finRange 8).any (reported p a rest) = true := List.any_eq_true.2 ⟨i, List.mem_finRange i, self⟩
  unfold AreaRec.filed collecting
  rw [if_pos hany]
  congr 1
  ext k hk
  rw [Vector.getElem_set]
  simp only [Vector.getElem_ofFn]
  split
  · rename_i e
    subst e
    simp [self]
  · rename_i e
    rw [other ⟨k, hk⟩ fun h => e (congrArg Fin.val h).symm]

/-- A collection in which every candidate has reported is the one the mark decides (R28). -/
theorem collecting_finished (hf : finished p a rest = true) :
    collecting p a stamp s rest = { markCollected p a s with stamp := some stamp } := by
  obtain ⟨ha, h0, hall⟩ := finished_iff.1 hf
  have hr (i : Fin 8) : reported p a rest i = decide (i.val < p.candCount a.val) := by
    rw [Bool.eq_iff_iff, reported_iff, decide_eq_true_eq]
    exact ⟨fun h => h.2.1, fun h => ⟨ha, h, hall i h⟩⟩
  have hany : (List.finRange 8).any (reported p a rest) = true :=
    List.any_eq_true.2 ⟨0, List.mem_finRange _, by rw [hr]; simpa using h0⟩
  unfold collecting markCollected
  rw [if_pos hany]
  simp [hr]

end

/-- The record the mark's decision weighs. -/
def weighedAtMark (p : Plan) (a : Fin 8) (s : State) : AreaRec := weighed p a (markCollected p a s)

/-- The switch of an area at a mark, once its candidates have reported. -/
def switchSoFar (p : Plan) (a : Fin 8) (s : State) (rest : List (Fin 24 × Fin 8)) : Option (Option (Fin 8)) :=
  if finished p a rest then decidedSwitch p a (weighedAtMark p a s) else none

/-- The record of an area while the lines report at a mark. -/
def recordSoFar (p : Plan) (a : Fin 8) (stamp : Word) (s : State) (rest : List (Fin 24 × Fin 8)) : AreaRec :=
  if finished p a rest then (decidedRecord p a (weighedAtMark p a s)).emptied else collecting p a stamp s rest

/-- The run of level reports at a mark in SERVICE: where it stands when these reports are still to come. `s` is the state
before the mark, `u` the one from which the reports asked for count, `own` each zone's record after TE's own work. -/
structure MarkRun (p : Plan) (stamp : Word) (s u : State) (l0 : List Request) (own : Fin 48 → TapRec)
    (rest : List (Fin 24 × Fin 8)) (t : State) : Prop where
  service : t.command.device = .service
  levels : ∀ l : Fin 24, l.val < p.lineCount →
    (⟨(t.line l).cond, (t.line l).peak⟩ : Level) = ⟨markedCond p l (s.line l), (s.line l).peak⟩
  asks : ∃ se, AsksAt stamp u (l0 ++ se) t ∧ (∀ q ∈ se, q.kind = .elected ∧ q.subject < p.areaCount) ∧
    ∀ a, (s.area a).collectsNothing →
      requestsOf .elected a.val se = decisionAsks a (s.area a) (switchSoFar p a s rest)
  areas : ∀ a, (s.area a).collectsNothing → t.area a = recordSoFar p a stamp s rest
  taps : ∀ a, (s.area a).collectsNothing → ∀ z ∈ p.zonesOf a,
    t.tap z = (own z).toldOf p z (switchSoFar p a s rest)
  marks : ∀ a, (s.area a).collectsNothing → ∀ x, switchSoFar p a s rest = some x → Marked t (22 + a.val)

/-- What is to come concerns an area only through its candidates. -/
theorem finished_congr {p : Plan} {a : Fin 8} {m n : List (Fin 24 × Fin 8)}
    (h : ∀ i : Fin 8, a.val < p.areaCount → i.val < p.candCount a.val →
      ((candidate p a i, a) ∈ m ↔ (candidate p a i, a) ∈ n)) : finished p a m = finished p a n := by
  rw [Bool.eq_iff_iff, finished_iff, finished_iff]
  exact and_congr_right fun ha => and_congr_right fun _ =>
    forall_congr' fun i => forall_congr' fun hi => not_congr (h i ha hi)

theorem reported_congr {p : Plan} {a : Fin 8} {m n : List (Fin 24 × Fin 8)}
    (h : ∀ i : Fin 8, a.val < p.areaCount → i.val < p.candCount a.val →
      ((candidate p a i, a) ∈ m ↔ (candidate p a i, a) ∈ n)) : reported p a m = reported p a n := by
  funext i
  rw [Bool.eq_iff_iff, reported_iff, reported_iff]
  exact and_congr_right fun ha => and_congr_right fun hi => not_congr (h i ha hi)

/-- The parts of `MarkRun` about one area stand alike where the reports to come are alike for it. -/
theorem soFar_congr {p : Plan} {a : Fin 8} {stamp : Word} {s : State} {m n : List (Fin 24 × Fin 8)}
    (h : ∀ i : Fin 8, a.val < p.areaCount → i.val < p.candCount a.val →
      ((candidate p a i, a) ∈ m ↔ (candidate p a i, a) ∈ n)) :
    switchSoFar p a s m = switchSoFar p a s n ∧ recordSoFar p a stamp s m = recordSoFar p a stamp s n := by
  unfold switchSoFar recordSoFar collecting
  rw [finished_congr h, reported_congr h]
  exact ⟨rfl, rfl⟩

/-- What a decision makes of a record does not depend on its stamp, but for the stamp. -/
theorem decided_stamped (p : Plan) (a : Fin 8) (r : AreaRec) (x : Option Word) :
    decidedSwitch p a (weighed p a { r with stamp := x }) = decidedSwitch p a (weighed p a r) ∧
      (decidedRecord p a (weighed p a { r with stamp := x })).emptied =
        (decidedRecord p a (weighed p a r)).emptied := by
  have hv : verdict p a (weighed p a { r with stamp := x }) = verdict p a (weighed p a r) := rfl
  have hp : (weighed p a { r with stamp := x }).pin = (weighed p a r).pin := rfl
  unfold decidedSwitch decidedRecord
  rw [hv, hp]
  refine ⟨rfl, ?_⟩
  split
  · rfl
  · split <;> rfl

end Sys2Proof.Machine
end

section
/-!
PROOFS. The run of level reports at a mark, from its first to its last (R24, R27): each keeps `MarkRun`, and at the end
every area that collects has decided. Then the same of the blocks' whole work.
-/
namespace Sys2Proof.Machine

-- one theorem after another, as in the tests: side by side they take more threads than the memory limit allows
set_option Elab.async false

/-! ### One level report -/

theorem toldOf_none (p : Plan) (z : Fin 48) (r : TapRec) : r.toldOf p z none = r := rfl

theorem requestsOf_all {kind : ReportKind} {n : Nat} {l : List Request} (h : ∀ q ∈ l, q.kind = kind ∧ q.subject = n) :
    requestsOf kind n l = l := List.filter_eq_self.2 fun q hq => by simpa using h q hq

theorem of_mem_decisionAsks {a : Fin 8} {w : AreaRec} {x : Option (Option (Fin 8))} {q : Request}
    (h : q ∈ decisionAsks a w x) : q.kind = .elected ∧ q.subject = a.val := by
  cases x with
  | none => cases h
  | some x => rw [List.mem_singleton.1 h]; exact ⟨rfl, rfl⟩

section
variable {p : Plan} {stamp : Word} {s u : State} {l0 : List Request} {own : Fin 48 → TapRec}
  {rest : List (Fin 24 × Fin 8)} {t : State}

/-- A report the area does not list changes nothing, and nothing of the run. -/
theorem MarkRun.unlisted {l : Fin 24} {a : Fin 8} (h : MarkRun p stamp s u l0 own ((l, a) :: rest) t)
    (hl : ∀ b i : Fin 8, b.val < p.areaCount → i.val < p.candCount b.val → (candidate p b i, b) ≠ (l, a)) :
    MarkRun p stamp s u l0 own rest t := by
  have same (b : Fin 8) := soFar_congr (stamp := stamp) (s := s) (p := p) (a := b) (m := (l, a) :: rest) (n := rest)
    fun i hb hi => by
      rw [List.mem_cons]
      exact or_iff_right (hl b i hb hi)
  obtain ⟨hserv, hlev, ⟨se, hse, hk, hr⟩, hareas, htaps, hmarks⟩ := h
  refine ⟨hserv, hlev, ⟨se, hse, hk, fun b hb => ?_⟩, fun b hb => ?_, fun b hb z hz => ?_, fun b hb x hx => ?_⟩
  · rw [hr b hb, (same b).1]
  · rw [hareas b hb, (same b).2]
  · rw [htaps b hb z hz, (same b).1]
  · exact hmarks b hb x (by rw [(same b).1]; exact hx)

/-- What a level report leaves of an area that collects nothing but the mark's own reports. -/
structure Taken (p : Plan) (stamp : Word) (s u : State) (l1 : List Request) (own : Fin 48 → TapRec) (a : Fin 8)
    (rest : List (Fin 24 × Fin 8)) (t : State) : Prop where
  asks : AsksAt stamp u (l1 ++ decisionAsks a (s.area a) (switchSoFar p a s rest)) t
  area : t.area a = recordSoFar p a stamp s rest
  taps : ∀ z ∈ p.zonesOf a, t.tap z = (own z).toldOf p z (switchSoFar p a s rest)
  mark : ∀ x, switchSoFar p a s rest = some x → Marked t (22 + a.val)

/-- The report that is an area's next is filed; if it is the last, the area decides. -/
theorem taken_of_collecting {l : Fin 24} {a i : Fin 8} {lev : Level} {l1 : List Request} (hok : CandidatesOk p)
    (hn : (l, a) ∉ rest) (ha : a.val < p.areaCount) (hi : i.val < p.candCount a.val) (hl : candidate p a i = l)
    (hlev : lev = markLevel p a i s) (hserv : t.command.device = .service)
    (harea : t.area a = collecting p a stamp s ((l, a) :: rest)) (htaps : ∀ z ∈ p.zonesOf a, t.tap z = own z)
    (hasks : AsksAt stamp u l1 t) : Taken p stamp s u l1 own a rest (seTake p a i stamp lev t) := by
  have hfile : (t.area a).filed i stamp lev = collecting p a stamp s rest := by
    rw [harea, hlev]
    exact filed_collecting hok ha hi hl hn
  rw [seTake_filed hserv (by rw [harea]; exact closedBy_collecting), hfile,
    complete_collecting ha (Nat.lt_of_le_of_lt (Nat.zero_le _) hi)]
  have hset : AsksAt stamp u l1 (t.setArea a (collecting p a stamp s rest)) := (stable_asksAt stamp u l1).record hasks
  cases hf : finished p a rest with
  | false =>
    have hsw : switchSoFar p a s rest = none := by rw [switchSoFar, hf]; rfl
    have hrec : recordSoFar p a stamp s rest = collecting p a stamp s rest := by rw [recordSoFar, hf]; rfl
    rw [if_neg (by simp)]
    refine ⟨?_, ?_, fun z hz => ?_, fun x hx => ?_⟩
    · rw [hsw]; simpa [decisionAsks] using hset
    · rw [hrec, area_setArea_self]
    · rw [hsw, toldOf_none]
      exact htaps z hz
    · rw [hsw] at hx; cases hx
  | true =>
    have hw := decided_stamped p a (markCollected p a s) (some stamp)
    rw [← collecting_finished hf] at hw
    have hsw : switchSoFar p a s rest = decidedSwitch p a (weighed p a (collecting p a stamp s rest)) := by
      rw [hw.1, switchSoFar, hf]; rfl
    have hrec : recordSoFar p a stamp s rest =
        (decidedRecord p a (weighed p a (collecting p a stamp s rest))).emptied := by
      rw [hw.2, recordSoFar, hf]; rfl
    rw [if_pos rfl]
    have hself : (t.setArea a (collecting p a stamp s rest)).area a = collecting p a stamp s rest := area_setArea_self _ _ _
    refine ⟨?_, ?_, fun z hz => ?_, fun x hx => ?_⟩
    · have := seDecide_asks p a _ hset
      rw [hself, ← hsw] at this
      exact (stable_asksAt stamp u _).record this
    · rw [area_seDecideAndEmpty, if_pos rfl, hself, hrec]
    · rw [tap_seDecideAndEmpty, if_pos hz, hself, hsw]
      exact congrArg (TapRec.toldOf p z · _) (htaps z hz)
    · exact Marked.setArea _ _ (marked_seDecide p a _ (by rw [hself, ← hsw]; exact hx))

/-- A level report keeps the run. -/
theorem MarkRun.step (hok : CandidatesOk p) {l : Fin 24} {a : Fin 8}
    (hn : (l, a) ∉ rest) (hl : l.val < p.lineCount) (ha : a.val < p.areaCount)
    (h : MarkRun p stamp s u l0 own ((l, a) :: rest) t) :
    MarkRun p stamp s u l0 own rest (ltReportTo p stamp l a t) := by
  unfold ltReportTo
  split
  · rename_i he
    exact h.unlisted fun b i hb hi e => by
      obtain ⟨e1, e2⟩ := Prod.ext_iff.1 e
      dsimp only at e1 e2
      subst e2
      exact hok.index_none hb he hi e1
  rename_i i he
  obtain ⟨hi, hc⟩ := hok.index_some ha he
  obtain ⟨hserv, hlev, ⟨se, hse, hk, hr⟩, hareas, htaps, hmarks⟩ := h
  generalize hle : (⟨(t.line l).cond, (t.line l).peak⟩ : Level) = lev
  have hlev' : lev = markLevel p a i s := by
    rw [← hle, hlev l hl, ← hc]; rfl
  have keeps : KeepsAllBut decisionParts t (seTake p a i stamp lev t) := (KeepsAllBut.refl t).seTake
  have open_ : finished p a ((l, a) :: rest) = false := by
    rw [Bool.eq_false_iff]
    intro hf
    exact (finished_iff.1 hf).2.2 i hi (by rw [hc]; exact List.mem_cons_self)
  have hsw0 : switchSoFar p a s ((l, a) :: rest) = none := by rw [switchSoFar, open_]; rfl
  have hrec0 : recordSoFar p a stamp s ((l, a) :: rest) = collecting p a stamp s ((l, a) :: rest) := by
    rw [recordSoFar, open_]; rfl
  have taken (hcn : (s.area a).collectsNothing) := taken_of_collecting (own := own) hok hn ha hi hc hlev' hserv
    ((hareas a hcn).trans hrec0) (fun z hz => by rw [htaps a hcn z hz, hsw0, toldOf_none]) hse
  have same (b : Fin 8) (hb : b ≠ a) := soFar_congr (stamp := stamp) (s := s) (p := p) (a := b) (m := (l, a) :: rest)
    (n := rest) fun i _ _ => by simp [hb]
  refine ⟨Eq.trans (keeps .device (by decide)) hserv, fun k hk => ?_, ?_, fun b hb => ?_, fun b hb z hz => ?_,
    fun b hb x hx => ?_⟩
  · rw [line_of_keeps keeps k]
    exact hlev k hk
  · by_cases hcn : (s.area a).collectsNothing
    · refine ⟨se ++ decisionAsks a (s.area a) (switchSoFar p a s rest), ?_, fun q hq => ?_, fun b hb => ?_⟩
      · rw [← List.append_assoc]
        exact (taken hcn).asks
      · rcases List.mem_append.1 hq with hq | hq
        · exact hk q hq
        · obtain ⟨e1, e2⟩ := of_mem_decisionAsks hq
          exact ⟨e1, by rw [e2]; exact ha⟩
      · rw [requestsOf_append, hr b hb]
        by_cases hab : b = a
        · subst hab
          rw [hsw0, requestsOf_all fun q hq => of_mem_decisionAsks hq]
          rfl
        · rw [(same b hab).1, requestsOf_none _ _ (decisionAsks a _ _) fun q hq e => hab (Fin.ext ?_), List.append_nil]
          rw [← e.2, (of_mem_decisionAsks hq).2]
    · obtain ⟨hst, m, hm, hmk⟩ := (stable_asksThen (fun k n => k = .elected ∧ n = a.val) stamp u (l0 ++ se)).seTake
        p a i stamp lev ⟨rfl, rfl⟩ hse.then
      refine ⟨se ++ m, ⟨hst, by rw [← List.append_assoc]; exact hm⟩, fun q hq => ?_, fun b hb => ?_⟩
      · rcases List.mem_append.1 hq with hq | hq
        · exact hk q hq
        · exact ⟨(hmk q hq).1, by rw [(hmk q hq).2]; exact ha⟩
      · have hab : b ≠ a := fun e => hcn (e ▸ hb)
        rw [requestsOf_append, hr b hb, (same b hab).1,
          requestsOf_none _ _ m fun q hq e => hab (Fin.ext (by rw [← e.2, (hmk q hq).2])), List.append_nil]
  · by_cases hab : b = a
    · subst hab
      exact (taken hb).area
    · rw [area_seTake_ne i stamp lev hab, hareas b hb, (same b hab).2]
  · by_cases hab : b = a
    · subst hab
      exact (taken hb).taps z hz
    · have hza : z ∉ p.zonesOf a := fun e => hab (Fin.ext (by
        rw [← ((mem_zonesOf p a z).1 e).2, ((mem_zonesOf p b z).1 hz).2]))
      rw [tap_seTake_ne i stamp lev hza, htaps b hb z hz, (same b hab).1]
  · by_cases hab : b = a
    · subst hab
      exact (taken hb).mark x hx
    · exact (stable_marked (fun _ _ => True) _).seTake p a i stamp lev trivial
        (hmarks b hb x (by rw [(same b hab).1]; exact hx))

/-- The run, from its start to its end. -/
theorem MarkRun.all (hok : CandidatesOk p) {pairs : List (Fin 24 × Fin 8)} (hn : pairs.Nodup)
    (hp : ∀ x ∈ pairs, x.1.val < p.lineCount ∧ x.2.val < p.areaCount) (h : MarkRun p stamp s u l0 own pairs t) :
    MarkRun p stamp s u l0 own [] (forEach pairs (fun x => ltReportTo p stamp x.1 x.2) t) := by
  induction pairs generalizing t with
  | nil => exact h
  | cons x pairs ih =>
    obtain ⟨hx, hpairs⟩ := List.nodup_cons.1 hn
    obtain ⟨h1, h2⟩ := hp x (by simp)
    exact ih hpairs (fun y hy => hp y (by simp [hy])) (MarkRun.step hok hx h1 h2 h)

end

end Sys2Proof.Machine
end

section
/-!
PROOFS. What a frame mark leaves of areas (O7) and of tap records (O13): the run of level reports inside the blocks'
work, and what notices leave of a tap record besides its pending target.
-/
namespace Sys2Proof.Machine

-- one theorem after another, as in the tests: side by side they take more threads than the memory limit allows
set_option Elab.async false

theorem KeepsAllBut.ltMarkLine {c : List Part} {s t : State} {p : Plan} {l : Fin 24} (h : KeepsAllBut c s t)
    (hc : ∀ q ∈ Part.lines :: reportParts, q ∈ c := by decide) : KeepsAllBut c s (ltMarkLine p l t) := by
  have h1 : ∀ q ∈ [Part.lines], q ∈ c := fun q hq => hc q (by revert q; decide)
  have h2 : ∀ q ∈ reportParts, q ∈ c := fun q hq => hc q (by revert q; decide)
  have h3 : ∀ q ∈ statusParts, q ∈ c := fun q hq => hc q (by revert q; decide)
  unfold Machine.ltMarkLine
  dsimp only
  split
  · exact h
  · exact (h.setLine h1).statusChange h3
  · exact h.setLine h1
  · split
    · split
      · exact ((h.setLine h1).request h2).statusChange h3
      · exact h.setLine h1
    · exact h.setLine h1

/-! ### The election of a mark -/

/-- The switch of an area at a mark, if it makes one. -/
def markSwitch (p : Plan) (a : Fin 8) (s : State) : Option (Option (Fin 8)) :=
  if s.command.device = .service then switchSoFar p a s [] else none

/-- The record of an area after the election of a mark. -/
def markRecord (p : Plan) (a : Fin 8) (s : State) : AreaRec :=
  if s.command.device = .service ∧ a.val < p.areaCount ∧ 0 < p.candCount a.val then
    (decidedRecord p a (weighedAtMark p a s)).emptied
  else s.area a

/-- What the election of a mark leaves, seen from the state `s` before the mark: the reports asked for since `u`, and of
every area that collected nothing before it the record, its zones' tap records and its status word. -/
structure MarkElects (p : Plan) (stamp : Word) (s u : State) (l0 se : List Request) (own : Fin 48 → TapRec)
    (t : State) : Prop where
  asks : AsksAt stamp u (l0 ++ se) t
  kinds : ∀ q ∈ se, q.kind = .elected ∧ q.subject < p.areaCount
  switches : ∀ a, (s.area a).collectsNothing →
    requestsOf .elected a.val se = decisionAsks a (s.area a) (markSwitch p a s)
  areas : ∀ a, (s.area a).collectsNothing → t.area a = markRecord p a s
  taps : ∀ a, (s.area a).collectsNothing → ∀ z ∈ p.zonesOf a, t.tap z = (own z).toldOf p z (markSwitch p a s)
  marks : ∀ a, (s.area a).collectsNothing → ∀ x, markSwitch p a s = some x → Marked t (22 + a.val)

theorem finished_nil (p : Plan) (a : Fin 8) :
    finished p a [] = true ↔ a.val < p.areaCount ∧ 0 < p.candCount a.val := by
  rw [finished_iff]
  exact ⟨fun h => ⟨h.1, h.2.1⟩, fun h => ⟨h.1, h.2, fun _ _ => List.not_mem_nil⟩⟩

theorem collecting_none {p : Plan} {a : Fin 8} {stamp : Word} {s : State} (hc : (s.area a).collectsNothing)
    (h : ¬ (a.val < p.areaCount ∧ 0 < p.candCount a.val)) : collecting p a stamp s [] = s.area a :=
  collecting_start hc fun i => by
    rw [Bool.eq_false_iff]
    intro hr
    obtain ⟨ha, hi, _⟩ := reported_iff.1 hr
    exact h ⟨ha, by omega⟩

/-- Outside SERVICE no level report is taken (R24). -/
theorem forEach_ltReports_idle {p : Plan} {stamp : Word} {t : State} (hd : t.command.device ≠ .service)
    (ls : List (Fin 24)) : forEach ls (ltReports p stamp) t = t := by
  refine forEach_keeps (· = t) ls (fun l _ u hu => ?_) rfl
  subst hu
  unfold ltReports
  split
  · refine forEach_keeps (· = u) _ (fun a _ v hv => ?_) rfl
    subst hv
    unfold ltReportTo seTake
    split
    · rfl
    · rw [if_neg hd]
  · rfl

theorem afterMark_cond (p : Plan) (l : Fin 24) (r : LineRec) : (r.afterMark p l).cond = markedCond p l r := by
  unfold LineRec.afterMark markedCond LineRec.cleanFrame
  cases hc : r.cond
  case idle => exact hc
  case synced => rfl
  case running => exact hc
  case faulted =>
    cases hw : (r.writeSeen && !r.jumpSeen)
    · exact hc
    · by_cases hq : p.recoverFrames l.val ≤ r.quiet + 1 <;> simp [hq, hc, LineRec.latched]

theorem afterMark_peak (p : Plan) (l : Fin 24) (r : LineRec) : (r.afterMark p l).peak = r.peak := by
  unfold LineRec.afterMark
  repeat' split
  all_goals rfl

section
variable {p : Plan} {stamp : Word} {s u t : State} {l0 : List Request}

/-- The level reports of a mark, from a state in which the lines' work is done. -/
theorem markElects_reports (hok : CandidatesOk p) (hdev : t.command.device = s.command.device)
    (hlev : ∀ l : Fin 24, l.val < p.lineCount →
      (⟨(t.line l).cond, (t.line l).peak⟩ : Level) = ⟨markedCond p l (s.line l), (s.line l).peak⟩)
    (harea : ∀ a, t.area a = s.area a) (h : AsksAt stamp u l0 t) :
    ∃ se, MarkElects p stamp s u l0 se t.tap (forEach p.linesInUse (ltReports p stamp) t) := by
  by_cases hd : s.command.device = .service
  · have none0 (a : Fin 8) : finished p a (reportPairs p) = false := by
      rw [Bool.eq_false_iff]
      intro hf
      obtain ⟨ha, h0, hall⟩ := finished_iff.1 hf
      exact hall 0 h0 (hok.candidate_mem ha h0)
    have sw0 (a : Fin 8) : switchSoFar p a s (reportPairs p) = none := by rw [switchSoFar, none0]; rfl
    have start : MarkRun p stamp s u l0 t.tap (reportPairs p) t := by
      refine ⟨hdev.trans hd, hlev, ⟨[], by simpa using h, by simp, fun a _ => ?_⟩, fun a hc => ?_, fun a _ z _ => ?_,
        fun a _ x hx => ?_⟩
      · rw [sw0]; rfl
      · rw [recordSoFar, none0, harea]
        refine (collecting_start hc fun i => ?_).symm
        rw [Bool.eq_false_iff]
        intro hr
        obtain ⟨ha, hi, hn⟩ := reported_iff.1 hr
        exact hn (hok.candidate_mem ha hi)
      · rw [sw0]; rfl
      · rw [sw0] at hx; cases hx
    have done := start.all hok (nodup_reportPairs p) fun x hx =>
      (fun ⟨⟨h1, _⟩, h2⟩ => ⟨h1, h2⟩) ((mem_reportPairs p x.1 x.2).1 hx)
    have sw (a : Fin 8) : switchSoFar p a s [] = markSwitch p a s := (if_pos hd).symm
    have hrec (a : Fin 8) (hc : (s.area a).collectsNothing) : recordSoFar p a stamp s [] = markRecord p a s := by
      unfold recordSoFar markRecord
      by_cases hf : a.val < p.areaCount ∧ 0 < p.candCount a.val
      · rw [if_pos ((finished_nil p a).2 hf), if_pos ⟨hd, hf⟩]
      · rw [if_neg (fun h => hf ((finished_nil p a).1 h)), if_neg (fun h => hf h.2)]
        exact collecting_none hc hf
    rw [forEach_ltReports]
    obtain ⟨se, hse, hk, hr⟩ := done.asks
    refine ⟨se, hse, hk, fun a ha => ?_, fun a ha => ?_, fun a ha z hz => ?_, fun a ha x hx => ?_⟩
    · rw [hr a ha, sw]
    · rw [← hrec a ha]
      exact done.areas a ha
    · rw [← sw]
      exact done.taps a ha z hz
    · exact done.marks a ha x (by rw [sw]; exact hx)
  · have sw (a : Fin 8) : markSwitch p a s = none := if_neg hd
    rw [forEach_ltReports_idle (by rw [hdev]; exact hd)]
    refine ⟨[], by simpa using h, by simp, fun a _ => ?_, fun a _ => ?_, fun a _ z _ => ?_, fun a _ x hx => ?_⟩
    · rw [sw]; rfl
    · rw [harea, markRecord, if_neg fun h => hd h.1]
    · rw [sw]; rfl
    · rw [sw] at hx; cases hx

end

/-- The reports of ZC's work at a mark. -/
theorem zcMark_asks {stamp : Word} {s t : State} {m : List Request} (p : Plan) (h : AsksAt stamp s m t) :
    AsksAt stamp s (m ++ p.zonesInUse.flatMap fun z => feedAsks p (t.store.effective z) z (t.guard z)) (zcMark p t) :=
  forEach_asks (fun u z => u.guard z) (fun u => u.store = t.store)
    (fun z g => feedAsks p (t.store.effective z) z g) (zcMarkZone p)
    (fun i u hu => (store_zcMarkZone p i u).trans hu) (fun i k u _ hk => guard_zcMarkZone_ne p i k u hk)
    (fun i u l hu hl => by
      have := zcMarkZone_asks p i hl
      rw [hu] at this
      exact this) p.zonesInUse (nodup_zonesInUse p) t rfl m h

/-! ### Tap records at a mark (R53 to R55) -/

theorem markedTap_eq (r : TapRec) (n : Nat) : markedTap r n = tapAfterMark r n := by
  unfold markedTap tapAfterMark steadyMark
  cases hg : r.glide with
  | steady d =>
    cases hp : r.pendingTarget with
    | none => simp
    | some x => by_cases hx : x = d <;> simp [hx]
  | gliding a b k g =>
    by_cases hk : k + 1 < g
    · simp [hk]
    · cases hp : r.pendingTarget with
      | none => simp [hk]
      | some x => by_cases hx : x = b <;> simp [hk, hx]

theorem noticed_eq (r : TapRec) (d : Nat) : noticed r d = pendingAfter r.glide d := by
  unfold noticed pendingAfter Glide.heading
  cases r.glide <;> rfl

/-- A zone's record after TE's own work at a mark. -/
def ownAfterMark (p : Plan) (z : Fin 48) (r : TapRec) : TapRec :=
  if z.val < p.zoneCount then markedTap r (p.glideFrames (p.zoneArea z.val)) else r

theorem tap_teMarkZone_self (p : Plan) (z : Fin 48) (t : State) :
    (teMarkZone p z t).tap z = markedTap (t.tap z) (p.glideFrames (p.zoneArea z.val)) := by
  unfold teMarkZone
  dsimp only
  split <;> simp

theorem tap_teMarkZone_ne (p : Plan) (z k : Fin 48) (t : State) (h : k ≠ z) : (teMarkZone p z t).tap k = t.tap k := by
  unfold teMarkZone
  dsimp only
  split <;> simp [tap_setTap_ne _ _ _ _ h]

theorem tap_teMark (p : Plan) (t : State) (z : Fin 48) : (teMark p t).tap z = ownAfterMark p z (t.tap z) := by
  have := forEach_record (fun t z => t.tap z) (fun _ => True)
    (fun z r => markedTap r (p.glideFrames (p.zoneArea z.val))) (teMarkZone p) (fun _ _ _ => trivial)
    (fun i u _ => tap_teMarkZone_self p i u) (fun i k u _ h => tap_teMarkZone_ne p i k u h) p.zonesInUse
    (nodup_zonesInUse p) t trivial z
  simpa [teMark, ownAfterMark] using this

/-- A glide that ends or begins, or a pending target that goes, is a status change (R53, R54). -/
theorem marked_teMark (p : Plan) (t : State) (z : Fin 48) (hz : z.val < p.zoneCount)
    (h : markChangesTap (t.tap z) = true) : Marked (teMark p t) (54 + z.val) := by
  have hE := stable_marked (fun _ _ => True) (54 + z.val)
  refine forEach_event (fun t z => t.tap z) (fun _ => True) (Marked · (54 + z.val)) (fun r => markChangesTap r = true)
    (teMarkZone p) (fun _ _ _ => trivial) (fun i k u _ h => tap_teMarkZone_ne p i k u h)
    (fun i u hu => hE.teMarkZone p i hu) p.zonesInUse (nodup_zonesInUse p) t trivial z ((mem_zonesInUse p z).2 hz) h
    fun u _ hu => ?_
  unfold teMarkZone
  dsimp only
  rw [if_pos hu]
  exact marked_statusChange _ _

/-- Where TE's own work is no status change, the zone glides as before and its pending target stands. -/
theorem markedTap_unchanged {r : TapRec} (n : Nat) (h : ¬ markChangesTap r = true) :
    (markedTap r n).glide.isGliding = r.glide.isGliding ∧ (markedTap r n).pendingTarget = r.pendingTarget := by
  unfold markChangesTap at h
  unfold markedTap
  cases hg : r.glide with
  | steady d =>
    rw [hg] at h
    have hp : r.pendingTarget = none := by simpa using h
    simp [hp, steadyMark, Glide.isGliding]
  | gliding a b k g =>
    rw [hg] at h
    have hk : k + 1 < g := by simpa using h
    simp [hk, Glide.isGliding]

/-- On the way from one state to another a tap record took notices and nothing else, and where its pending target
appeared or went, its status word was marked (R50). -/
def TapMoves (z : Fin 48) (t v : State) : Prop :=
  (∃ x, v.tap z = { t.tap z with pendingTarget := x } ∧
    (x.isSome ≠ (t.tap z).pendingTarget.isSome → Marked v (54 + z.val))) ∧
  (Marked t (54 + z.val) → Marked v (54 + z.val))

namespace TapMoves

variable {z : Fin 48} {t v w : State}

theorem same (ht : v.tap z = t.tap z) (hm : Marked t (54 + z.val) → Marked v (54 + z.val)) : TapMoves z t v :=
  ⟨⟨(t.tap z).pendingTarget, ht, fun h => absurd rfl h⟩, hm⟩

theorem refl (z : Fin 48) (t : State) : TapMoves z t t := same rfl id

theorem trans (h : TapMoves z t v) (k : TapMoves z v w) : TapMoves z t w := by
  obtain ⟨⟨x, hx, hxm⟩, hm⟩ := h
  obtain ⟨⟨y, hy, hym⟩, km⟩ := k
  refine ⟨⟨y, by rw [hy, hx], fun hne => ?_⟩, km ∘ hm⟩
  by_cases hxy : x.isSome = (t.tap z).pendingTarget.isSome
  · refine hym ?_
    rw [hx]
    exact fun e => hne (e.trans hxy)
  · exact km (hxm hxy)

/-- Work that leaves tap records alone and undoes no status change. -/
theorem keeps {c : List Part} (h : KeepsAllBut c t v) (hm : Marked t (54 + z.val) → Marked v (54 + z.val))
    (hc : Part.taps ∉ c := by decide) : TapMoves z t v := same (tap_of_keeps h z hc) hm

theorem forEach {α : Type} (l : List α) {f : α → State → State} (hf : ∀ x ∈ l, ∀ u, TapMoves z u (f x u)) (t : State) :
    TapMoves z t (forEach l f t) :=
  forEach_keeps (TapMoves z t) l (fun x hx u hu => hu.trans (hf x hx u)) (refl z t)

theorem teNotice (k : Fin 48) (d : Nat) (t : State) : TapMoves z t (teNotice k d t) := by
  by_cases hk : z = k
  · subst hk
    refine ⟨⟨noticed (t.tap z) d, tap_teNotice_self z d t, fun hne => ?_⟩, fun h => h.teNotice z d⟩
    unfold Machine.teNotice
    dsimp only
    rw [if_neg hne]
    exact marked_statusChange _ _
  · exact same (tap_teNotice_ne k z d t hk) fun h => h.teNotice k d

theorem seDecideAndEmpty (p : Plan) (a : Fin 8) (t : State) : TapMoves z t (seDecideAndEmpty p a t) := by
  refine TapMoves.trans (v := seDecide p a t) ?_ (same rfl fun h => h.setArea _ _)
  refine seDecide_cases p a t (TapMoves z t) (fun r _ _ => same rfl fun h => h.setArea _ _) (fun x _ _ => ?_)
  rw [seSwitch_eq]
  refine TapMoves.trans (same ?_ fun h => ((h.setArea _ _).request _ _ _ _).statusChange _)
    (TapMoves.forEach _ (fun k _ u => teNotice k _ u) _)
  simp

theorem seTake (p : Plan) (a i : Fin 8) (stamp : Word) (l : Level) (t : State) :
    TapMoves z t (seTake p a i stamp l t) := by
  unfold Machine.seTake
  split
  · dsimp only
    have first : TapMoves z t (if (t.area a).closedBy stamp then Machine.seDecideAndEmpty p a t else t) := by
      split
      · exact seDecideAndEmpty p a t
      · exact refl z t
    refine first.trans ?_
    generalize (if (t.area a).closedBy stamp then Machine.seDecideAndEmpty p a t else t) = v
    have filed : TapMoves z v (v.setArea a ((v.area a).filed i stamp l)) := same rfl fun h => h.setArea _ _
    split
    · exact filed.trans (seDecideAndEmpty p a _)
    · exact filed
  · exact refl z t

theorem ltMark (p : Plan) (stamp : Word) (t : State) : TapMoves z t (ltMark p stamp t) := by
  have hE := stable_marked (fun _ _ => True) (54 + z.val)
  have lines (u : State) : TapMoves z u (Machine.forEach p.linesInUse (ltMarkLine p) u) :=
    TapMoves.forEach _ (fun l _ u => keeps (c := .lines :: reportParts) (KeepsAllBut.refl u).ltMarkLine
      (hE.ltMarkLine p l trivial)) u
  have reports (u : State) : TapMoves z u (Machine.forEach p.linesInUse (ltReports p stamp) u) := by
    refine TapMoves.forEach _ (fun l _ u => ?_) u
    unfold ltReports
    split
    · refine TapMoves.forEach _ (fun a _ w => ?_) u
      unfold ltReportTo
      split
      · exact refl z w
      · exact seTake p a _ stamp _ w
    · exact refl z u
  have clear (u : State) : TapMoves z u (Machine.forEach p.linesInUse ltClearFrame u) :=
    TapMoves.forEach _ (fun l _ u => same (v := ltClearFrame l u) rfl fun h => Marked.setLine l _ h) u
  exact (lines t).trans ((reports _).trans (clear _))

end TapMoves

/-! ### The blocks' work before the swap -/

/-- Every block's work at a mark under the live plan, before PL's swap. -/
def blocksWork (p : Plan) (stamp : Word) (t : State) : State := zcMark p (ltMark p stamp (teMark p t))

theorem frameWork_blocksWork (p : Plan) (stamp : Word) (t : State) :
    frameWork p stamp t = plMark p (blocksWork p stamp t) := rfl

theorem keeps_blocksWork (p : Plan) (stamp : Word) (t : State) :
    KeepsAllBut ([.lines, .areas, .taps, .guards] ++ reportParts) t (blocksWork p stamp t) :=
  (KeepsAllBut.refl _).teMark.ltMark.zcMark

/-- What the election of a mark leaves before the swap, and every report until then. -/
theorem markElects_blocksWork {p : Plan} {stamp : Word} {s u : State} (hok : CandidatesOk p)
    (h0 : AsksAt stamp u [] s) :
    ∃ se, (∀ q ∈ se, q.kind = .elected ∧ q.subject < p.areaCount) ∧
      AsksAt stamp u (markRequests p s se []) (blocksWork p stamp s) ∧
      ∀ a, (s.area a).collectsNothing →
        requestsOf .elected a.val se = decisionAsks a (s.area a) (markSwitch p a s) ∧
        (blocksWork p stamp s).area a = markRecord p a s ∧
        (∀ z ∈ p.zonesOf a,
          (blocksWork p stamp s).tap z = (ownAfterMark p z (s.tap z)).toldOf p z (markSwitch p a s)) ∧
        ∀ x, markSwitch p a s = some x → Marked (blocksWork p stamp s) (22 + a.val) := by
  have h1 := (stable_asksAt stamp _ []).teMark p h0
  have k1 : KeepsAllBut (.taps :: statusParts) s (teMark p s) := (KeepsAllBut.refl _).teMark
  generalize hb : teMark p s = b at h1 k1
  have bline := line_of_keeps k1
  have h2 := forEach_asks (fun u l => u.line l) (fun _ => True) (recoveryAsks p) (ltMarkLine p) (fun _ _ _ => trivial)
    (fun i k u _ hk => line_ltMarkLine_ne p i k u hk) (fun i u l _ hu => ltMarkLine_asks p i hu) p.linesInUse
    (nodup_linesInUse p) b trivial [] h1
  simp only [bline, List.nil_append] at h2
  have mark (l : Fin 24) : (forEach p.linesInUse (ltMarkLine p) b).line l =
      if l ∈ p.linesInUse then (s.line l).afterMark p l else s.line l := by
    have := forEach_record (fun t l => t.line l) (fun _ => True) (fun l r => r.afterMark p l) (ltMarkLine p)
      (fun _ _ _ => trivial) (fun i u _ => line_ltMarkLine_self p i u) (fun i k u _ h => line_ltMarkLine_ne p i k u h)
      p.linesInUse (nodup_linesInUse p) b trivial l
    rw [← bline l]
    exact this
  have k2 : KeepsAllBut (.lines :: reportParts) b (forEach p.linesInUse (ltMarkLine p) b) :=
    .forEach _ (fun _ _ hu => hu.ltMarkLine) (.refl b)
  obtain ⟨se, he⟩ := markElects_reports (s := s) (t := forEach p.linesInUse (ltMarkLine p) b) hok
    (Eq.trans (k2 .device (by decide)) (k1 .device (by decide)))
    (fun l hl => by rw [mark, if_pos ((mem_linesInUse p l).2 hl), afterMark_cond, afterMark_peak])
    (fun a => (area_of_keeps k2 a).trans (area_of_keeps k1 a)) h2
  have clear : AsksAt stamp _ _ (ltMark p stamp b) := (stable_asksAt stamp _ _).ltClearFrames p.linesInUse he.asks
  have k3 : KeepsAllBut [.lines] (forEach p.linesInUse (ltReports p stamp) (forEach p.linesInUse (ltMarkLine p) b))
      (ltMark p stamp b) := .forEach _ (fun _ _ hu => hu.setLine) (.refl _)
  have k4 : KeepsAllBut zoneParts (ltMark p stamp b) (zcMark p (ltMark p stamp b)) := (KeepsAllBut.refl _).zcMark
  have k5 : KeepsAllBut (.taps :: markParts) s (ltMark p stamp b) := (k1.mono (by decide)).ltMark
  have hz := zcMark_asks p clear
  simp only [store_of_keeps k5, fun z => guard_of_keeps k5 z] at hz
  have etap (z : Fin 48) : (forEach p.linesInUse (ltMarkLine p) b).tap z = ownAfterMark p z (s.tap z) := by
    rw [tap_of_keeps k2 z, ← hb, tap_teMark]
  have eq : blocksWork p stamp s = zcMark p (ltMark p stamp b) := by rw [blocksWork, hb]
  rw [eq]
  refine ⟨se, he.kinds, by simpa [markRequests, List.append_assoc] using hz, fun a ha =>
    ⟨he.switches a ha, ?_, fun z hz => ?_, fun x hx => ?_⟩⟩
  · rw [area_of_keeps k4, area_of_keeps k3]
    exact he.areas a ha
  · rw [tap_of_keeps k4, tap_of_keeps k3, he.taps a ha z hz, etap]
  · have hE := stable_marked (fun _ _ => True) (22 + a.val)
    exact hE.zcMark p (fun _ _ => trivial) (hE.ltClearFrames _ (he.marks a ha x hx))

/-! ### As the word of a frame mark finds the state -/

/-- The state of a mark after every block's work under the live plan, before PL's swap. -/
def beforeSwap (p : Plan) (stamp : Word) (s : State) : State := blocksWork p stamp (s.stamped stamp)

/-- The election of a mark reads the records of areas and lines and the device state. -/
theorem markSwitch_congr {p : Plan} {a : Fin 8} {s t : State} (ha : t.area a = s.area a)
    (hl : ∀ l, t.line l = s.line l) (hd : t.command.device = s.command.device) :
    markSwitch p a t = markSwitch p a s ∧ markRecord p a t = markRecord p a s := by
  have hc : markCollected p a t = markCollected p a s := by
    unfold markCollected markLevel
    simp only [ha, hl]
  unfold markSwitch switchSoFar markRecord weighedAtMark
  rw [hc, ha, hd]
  exact ⟨rfl, rfl⟩

section
variable (p : Plan) (stamp : Word) (s : State)

theorem frameWork_eq : frameWork p stamp (s.stamped stamp) = plMark p (beforeSwap p stamp s) := rfl

theorem loader_beforeSwap : (beforeSwap p stamp s).loader = s.loader := by
  obtain ⟨hload, _⟩ := stamped_records s stamp
  exact (loader_of_keeps (keeps_blocksWork p stamp _)).trans hload

theorem command_beforeSwap : (beforeSwap p stamp s).command = { s.command with lastStamp := stamp } := by
  obtain ⟨_, _, _, _, _, _, hcom⟩ := stamped_records s stamp
  exact (command_of_keeps (keeps_blocksWork p stamp _)).trans hcom

/-- `markElects_blocksWork`, told from the state before the mark's word. -/
theorem markElects_beforeSwap (hok : CandidatesOk p) :
    ∃ se, (∀ q ∈ se, q.kind = .elected ∧ q.subject < p.areaCount) ∧
      AsksAt stamp (s.looked (s.coreWord 8 stamp)) (markRequests p s se []) (beforeSwap p stamp s) ∧
      ∀ a, (s.area a).collectsNothing →
        requestsOf .elected a.val se = decisionAsks a (s.area a) (markSwitch p a s) ∧
        (beforeSwap p stamp s).area a = markRecord p a s ∧
        (∀ z ∈ p.zonesOf a,
          (beforeSwap p stamp s).tap z = (ownAfterMark p z (s.tap z)).toldOf p z (markSwitch p a s)) ∧
        ∀ x, markSwitch p a s = some x → Marked (beforeSwap p stamp s) (22 + a.val) := by
  obtain ⟨_, harea, htap, hguard, hline, hstore, hcom⟩ := stamped_records s stamp
  have h0 : AsksAt stamp (s.looked (s.coreWord 8 stamp)) [] (s.stamped stamp) := ⟨rfl, (asks_refl stamp _).record⟩
  have same (a : Fin 8) := markSwitch_congr (p := p) (harea a) hline (by rw [hcom])
  have req (se : List Request) : markRequests p (s.stamped stamp) se [] = markRequests p s se [] := by
    unfold markRequests
    simp only [hline, hguard, hstore]
  obtain ⟨se, hk, hasks, hel⟩ := markElects_blocksWork hok h0
  refine ⟨se, hk, by rw [← req]; exact hasks, fun a ha => ?_⟩
  obtain ⟨h1, h2, h3, h4⟩ := hel a (by rw [harea]; exact ha)
  rw [harea, (same a).1] at h1
  rw [(same a).2] at h2
  rw [(same a).1] at h4
  exact ⟨h1, h2, fun z hz => by rw [← (same a).1, ← htap]; exact h3 z hz, h4⟩

end

end Sys2Proof.Machine
end

section
/-!
PROOFS. Frame marks on areas (O7) and on tap records (O13), read off what the election and TE leave before the swap.
-/
namespace Sys2Proof.Machine

-- one theorem after another, as in the tests: side by side they take more threads than the memory limit allows
set_option Elab.async false

/-- Without a standby plan a mark swaps nothing (R117). -/
theorem plMark_idle (p : Plan) {t : State} (h : t.loader.standby = none) : plMark p t = t := by
  unfold plMark
  rw [h]
  split <;> rfl

/-- Told from the state before the mark, what a decision leaves is what `DecidedAtMark` says. -/
theorem decidedAtMark_of {p : Plan} {a : Fin 8} {renew : AreaRec → AreaRec} {s t : State} {l : List Request}
    (harea : t.area a = renew (markRecord p a s))
    (hasks : requestsOf .elected a.val l = decisionAsks a (s.area a) (markSwitch p a s))
    (hmark : ∀ x, markSwitch p a s = some x → Marked t (22 + a.val)) : DecidedAtMark p a renew s t l := by
  unfold DecidedAtMark
  dsimp only
  rw [harea, hasks]
  refine ⟨fun h => ?_, fun hd ha h0 => ?_⟩
  · have hn : ¬ (s.command.device = .service ∧ a.val < p.areaCount ∧ 0 < p.candCount a.val) := by
      rintro ⟨h1, h2, h3⟩
      rcases h with h | h | h
      · exact h h1
      · omega
      · omega
    have hsw : markSwitch p a s = none := by
      unfold markSwitch switchSoFar
      split
      · rename_i hd
        rw [if_neg fun hf => hn ⟨hd, (finished_nil p a).1 hf⟩]
      · rfl
    rw [markRecord, if_neg hn, hsw]
    exact ⟨rfl, rfl⟩
  · have hsw : markSwitch p a s = decidedSwitch p a (weighed p a (markCollected p a s)) := by
      rw [markSwitch, if_pos hd, switchSoFar, if_pos ((finished_nil p a).2 ⟨ha, h0⟩)]
      rfl
    rw [markRecord, if_pos ⟨hd, ha, h0⟩, weighedAtMark, hsw]
    refine ⟨fun hp => ?_, fun q hp hv => ?_, fun x hp hv => ?_⟩
    · obtain ⟨h1, h2⟩ := decided_pinned (p := p) (a := a) (w := weighed p a (markCollected p a s)) hp
      rw [h1, h2]
      exact ⟨rfl, rfl⟩
    · obtain ⟨h1, h2⟩ := decided_keep (w := weighed p a (markCollected p a s)) hp hv
      rw [h1, h2]
      exact ⟨rfl, rfl⟩
    · obtain ⟨h1, h2⟩ := decided_switch (w := weighed p a (markCollected p a s)) hp hv
      rw [h1, h2]
      exact ⟨rfl, hmark x (by rw [hsw, h1]), rfl⟩

/-- Settles O7: the run of level reports (`MarkRun`) ends with every area that collects decided. -/
theorem frameMarkDecidesAreas : Obligations.FrameMarkDecidesAreas := by
  unfold Obligations.FrameMarkDecidesAreas
  intro s p stamp c a hc h hpl hsb hcn
  obtain ⟨hl, hpass⟩ := hpl
  obtain ⟨se, hse, hasks, hel⟩ := markElects_beforeSwap p stamp s (candidatesOk_of_pass hpass)
  obtain ⟨hsw, harea, _, hmark⟩ := hel a hcn
  have hfw : frameWork p stamp (s.stamped stamp) = beforeSwap p stamp s := by
    rw [frameWork_eq, plMark_idle p (by rw [loader_beforeSwap]; exact hsb)]
  refine ⟨marked p stamp s, _, exec_frameMark hc h hl,
    markAsks_of (sw := []) p stamp s hse (by simp) (by rw [hfw]; exact hasks), decidedAtMark_of ?_ ?_ fun x hx => ?_⟩
  · show (frameWork p stamp (s.stamped stamp)).area a = _
    rw [hfw, harea]
  · rw [requestsOf_elected (by simp), hsw]
  · exact marked_of_frameWork p stamp s (by rw [hfw]; exact hmark x hx)

/-! ### Tap records -/

/-- The source a mark leaves an area with, by its switch. -/
theorem elected_markRecord (p : Plan) (a : Fin 8) (s : State) :
    (∀ x, markSwitch p a s = some x → (markRecord p a s).elected = x ∧ x ≠ (s.area a).elected) ∧
      (markSwitch p a s = none → (markRecord p a s).elected = (s.area a).elected) := by
  unfold markSwitch switchSoFar markRecord
  by_cases hd : s.command.device = .service
  · by_cases hf : a.val < p.areaCount ∧ 0 < p.candCount a.val
    · rw [if_pos hd, if_pos ((finished_nil p a).2 hf), if_pos ⟨hd, hf⟩]
      exact elected_decidedRecord p a (weighedAtMark p a s)
    · rw [if_pos hd, if_neg fun h => hf ((finished_nil p a).1 h), if_neg fun h => hf h.2]
      exact ⟨fun x hx => (by cases hx), fun _ => rfl⟩
  · rw [if_neg hd, if_neg fun h => hd h.1]
    exact ⟨fun x hx => (by cases hx), fun _ => rfl⟩

/-- What a zone's status word shows of TE has changed only where the word was marked (R53, R54, R50). -/
theorem marked_of_tapMoves {p : Plan} {z : Fin 48} {t v : State} (hz : z.val < p.zoneCount)
    (h : TapMoves z (teMark p t) v)
    (hne : (v.tap z).glide.isGliding ≠ (t.tap z).glide.isGliding ∨
      (v.tap z).pendingTarget.isSome ≠ (t.tap z).pendingTarget.isSome) : Marked v (54 + z.val) := by
  obtain ⟨⟨x, hx, hxm⟩, hm⟩ := h
  by_cases hc : markChangesTap (t.tap z) = true
  · exact hm (marked_teMark p t z hz hc)
  · obtain ⟨hg, hp⟩ := markedTap_unchanged (p.glideFrames (p.zoneArea z.val)) hc
    have own : (teMark p t).tap z = markedTap (t.tap z) (p.glideFrames (p.zoneArea z.val)) := by
      rw [tap_teMark, ownAfterMark, if_pos hz]
    rw [own] at hx hxm
    refine hxm ?_
    rw [hp]
    rcases hne with hne | hne
    · rw [hx] at hne
      exact absurd hg hne
    · rw [hx] at hne
      exact hne

theorem tapMoves_zcMark (p : Plan) (z : Fin 48) (t : State) : TapMoves z t (zcMark p t) :=
  TapMoves.keeps (c := zoneParts) ((KeepsAllBut.refl t).zcMark)
    ((stable_marked (fun _ _ => True) _).zcMark p fun _ _ => trivial)

theorem tapMoves_beforeSwap (p : Plan) (stamp : Word) (s : State) (z : Fin 48) :
    TapMoves z (teMark p (s.stamped stamp)) (beforeSwap p stamp s) :=
  (TapMoves.ltMark p stamp _).trans (tapMoves_zcMark p z _)

theorem ownAfterMark_eq {p : Plan} {z : Fin 48} (hz : z.val < p.zoneCount) (r : TapRec) :
    ownAfterMark p z r = tapAfterMark r (p.glideFrames (p.zoneArea z.val)) := by
  rw [ownAfterMark, if_pos hz, markedTap_eq]

/-- A zone that is in no area of the plan takes no notice at a mark. -/
theorem tap_beforeSwap_unused (p : Plan) (stamp : Word) (s : State) (z : Fin 48) (hz : p.zoneCount ≤ z.val) :
    (beforeSwap p stamp s).tap z = s.tap z := by
  obtain ⟨_, _, htap, _⟩ := stamped_records s stamp
  have hno (a : Fin 8) : z ∉ p.zonesOf a := fun h => by
    have := ((mem_zonesOf p a z).1 h).1
    omega
  have reports (t : State) : (forEach p.linesInUse (ltReports p stamp) t).tap z = t.tap z := by
    refine forEach_keeps (fun u => u.tap z = t.tap z) _ (fun l _ u hu => ?_) rfl
    unfold ltReports
    split
    · refine forEach_keeps (fun v => v.tap z = t.tap z) _ (fun a _ v hv => ?_) hu
      unfold ltReportTo
      split
      · exact hv
      · rw [tap_seTake_ne _ _ _ (hno a)]
        exact hv
    · exact hu
  have lines (t : State) : KeepsAllBut (.lines :: reportParts) t (forEach p.linesInUse (ltMarkLine p) t) :=
    .forEach _ (fun _ _ hu => hu.ltMarkLine) (.refl t)
  have clear (t : State) : KeepsAllBut [.lines] t (forEach p.linesInUse ltClearFrame t) :=
    .forEach _ (fun _ _ hu => hu.setLine) (.refl t)
  unfold beforeSwap blocksWork
  rw [tap_of_keeps (c := zoneParts) (KeepsAllBut.refl _).zcMark z]
  unfold ltMark
  rw [tap_of_keeps (clear _) z, reports, tap_of_keeps (lines _) z, tap_teMark, htap, ownAfterMark, if_neg (by omega)]

/-- Settles O13: TE's own work, then the notice of the area's switch (`TapRec.toldOf`), told by the sources before and
after. -/
theorem frameMarkOnTaps : Obligations.FrameMarkOnTaps := by
  unfold Obligations.FrameMarkOnTaps
  refine ⟨fun g => ?_, ?_⟩
  · cases g with
    | steady d => simp [Glide.isGliding]
    | gliding a b k n => simp [Glide.isGliding]
  intro s p stamp c hc h hpl hsb hcn
  obtain ⟨hl, hpass⟩ := hpl
  obtain ⟨se, hse, hasks, hel⟩ := markElects_beforeSwap p stamp s (candidatesOk_of_pass hpass)
  have hfw : frameWork p stamp (s.stamped stamp) = beforeSwap p stamp s := by
    rw [frameWork_eq, plMark_idle p (by rw [loader_beforeSwap]; exact hsb)]
  have htap (z : Fin 48) : (marked p stamp s).tap z = (beforeSwap p stamp s).tap z := by
    show (frameWork p stamp (s.stamped stamp)).tap z = _
    rw [hfw]
  have harea (a : Fin 8) : (marked p stamp s).area a = (beforeSwap p stamp s).area a := by
    show (frameWork p stamp (s.stamped stamp)).area a = _
    rw [hfw]
  refine ⟨marked p stamp s, exec_frameMark hc h hl, fun z => ?_⟩
  dsimp only
  refine ⟨fun hz => ?_, fun hz a ha => ?_⟩
  · rw [htap, tap_beforeSwap_unused p stamp s z hz]
  obtain ⟨_, hrec, htaps, _⟩ := hel a (hcn a)
  obtain ⟨hsome, hnone⟩ := elected_markRecord p a s
  have hz' := htaps z ((mem_zonesOf p a z).2 ⟨hz, ha.symm⟩)
  rw [ownAfterMark_eq hz] at hz'
  rw [harea, hrec, htap, hz']
  refine ⟨fun he => ?_, fun i hi hne => ?_, fun hne => ?_⟩
  · cases hsw : markSwitch p a s with
    | none => rfl
    | some x =>
      obtain ⟨hx, hxne⟩ := hsome x hsw
      rcases he with he | he
      · exact absurd (hx.symm.trans he) hxne
      · rw [← hx, he]
        rfl
  · cases hsw : markSwitch p a s with
    | none => exact absurd (hnone hsw) hne
    | some x =>
      rw [← (hsome x hsw).1, hi]
      simp only [TapRec.toldOf, noticed_eq]
  · refine marked_of_frameWork p stamp s ?_
    rw [hfw]
    obtain ⟨_, _, hst, _⟩ := stamped_records s stamp
    refine marked_of_tapMoves hz (tapMoves_beforeSwap p stamp s z) ?_
    rw [hst, hz']
    exact hne

end Sys2Proof.Machine
end

section
/-!
PROOFS. The frame mark at which a standby plan becomes live (O33): the blocks' work under the old plan, then what each
block takes from the new one, then one notice to every zone whose area has a source.
-/
namespace Sys2Proof.Machine

-- one theorem after another, as in the tests: side by side they take more threads than the memory limit allows
set_option Elab.async false

/-! ### What a plan that shares the layout has in common with the live one (R109) -/

/-- The plan fields that two plans of one layout share. -/
structure SameLayout (p q : Plan) : Prop where
  lineCount : q.lineCount = p.lineCount
  areaCount : q.areaCount = p.areaCount
  zoneCount : q.zoneCount = p.zoneCount
  frameLen : q.frameLen = p.frameLen
  candCount : ∀ a, a < q.areaCount → q.candCount a = p.candCount a
  programLine : ∀ z, z < q.zoneCount → q.programLine z = p.programLine z
  zoneArea : ∀ z, z < q.zoneCount → q.zoneArea z = p.zoneArea z
  lineLen : ∀ l, l < q.lineCount → q.lineLen l = p.lineLen l

theorem sameLayout_of_pass {straps : BitVec 6} {p q : Plan} (h : planResult straps (some p) q = .pass) :
    SameLayout p q := by
  have hw := layout_of_pass h
  have num (o : Nat) (ho : o ∈ q.layoutOffsets) : q.num o = p.num o := congrArg BitVec.toNat (hw o ho)
  have header (o : Nat) (h1 : 1025 ≤ o) (h2 : o ≤ 1030) : q.num o = p.num o :=
    num o (by simp only [Plan.layoutOffsets, List.mem_append, List.mem_range'_1]; omega)
  have line (l : Nat) (hl : l < q.lineCount) : q.num (lineOff l 1) = p.num (lineOff l 1) :=
    num _ (by
      simp only [Plan.layoutOffsets, List.mem_append]
      exact .inl (.inl (.inr (List.mem_flatMap.2 ⟨l, List.mem_range.2 hl, by simp⟩))))
  have area (a : Nat) (ha : a < q.areaCount) : q.num (areaOff a 0) = p.num (areaOff a 0) :=
    num _ (by
      simp only [Plan.layoutOffsets, List.mem_append]
      exact .inl (.inr (List.mem_map.2 ⟨a, List.mem_range.2 ha, rfl⟩)))
  have zone (z : Nat) (hz : z < q.zoneCount) (k : Nat) (hk : k = 0 ∨ k = 1) :
      q.num (zoneOff z k) = p.num (zoneOff z k) :=
    num _ (by
      simp only [Plan.layoutOffsets, List.mem_append]
      exact .inr (List.mem_flatMap.2 ⟨z, List.mem_range.2 hz, by rcases hk with rfl | rfl <;> simp⟩))
  exact ⟨header _ (by decide) (by decide), header _ (by decide) (by decide), header _ (by decide) (by decide),
    header _ (by decide) (by decide), area, fun z hz => zone z hz 0 (.inl rfl), fun z hz => zone z hz 1 (.inr rfl), line⟩

/-! ### What the blocks take from the new plan (R36, R61, R118) -/

theorem area_seSwap (p q : Plan) (t : State) (a : Fin 8) : (seSwap p q t).area a = swapRenews p q a (t.area a) := by
  have := forEach_record (fun t a => t.area a) (fun _ => True)
    (fun a r => { r with
      envelope := Vector.ofFn fun i =>
        if i.val < q.candCount a.val ∧ p.candLine a.val i.val ≠ q.candLine a.val i.val then 0 else r.level i })
    (seSwapArea p q) (fun _ _ _ => trivial) (fun i u _ => by simp [seSwapArea])
    (fun i k u _ h => by simp [seSwapArea, area_setArea_ne _ _ _ _ h]) q.areasInUse (nodup_areasInUse q) t trivial a
  refine this.trans ?_
  unfold swapRenews
  simp only [mem_areasInUse, ne_comm (a := p.candLine a.val _)]

theorem tap_teSwap (q : Plan) (t : State) (z : Fin 48) :
    (teSwap q t).tap z = if z.val < q.zoneCount then { t.tap z with trim := q.trim z.val } else t.tap z := by
  have := forEach_record (fun t z => t.tap z) (fun _ => True) (fun z r => { r with trim := q.trim z.val })
    (teSwapZone q) (fun _ _ _ => trivial) (fun i u _ => by simp [teSwapZone])
    (fun i k u _ h => by simp [teSwapZone, tap_setTap_ne _ _ _ _ h]) q.zonesInUse (nodup_zonesInUse q) t trivial z
  simpa [teSwap] using this

/-- R118: a tap record after the notices of a swap. -/
def TapRec.swapTold (q : Plan) (z : Fin 48) (r : TapRec) (source : Option (Fin 8)) : TapRec :=
  match source with
  | none => r
  | some i => { r with pendingTarget := noticed r (q.rowEntry z.val i.val) }

theorem area_swapNotice (q : Plan) (z : Fin 48) (t : State) (a : Fin 8) : (swapNotice q z t).area a = t.area a := by
  unfold swapNotice
  split
  · rfl
  · exact area_of_keeps (c := .taps :: statusParts) (KeepsAllBut.refl t).teNotice a

theorem tap_swapNotices (q : Plan) (t : State) (z : Fin 48) :
    (forEach q.zonesInUse (swapNotice q) t).tap z =
      if z.val < q.zoneCount then (t.tap z).swapTold q z (t.area (areaNo (q.zoneArea z.val))).elected
      else t.tap z := by
  have := forEach_record (fun t z => t.tap z) (fun u => ∀ a, u.area a = t.area a)
    (fun z r => r.swapTold q z (t.area (areaNo (q.zoneArea z.val))).elected) (swapNotice q)
    (fun i u hu a => (area_swapNotice q i u a).trans (hu a))
    (fun i u hu => by
      unfold swapNotice TapRec.swapTold
      rw [hu]
      cases (t.area (areaNo (q.zoneArea i.val))).elected with
      | none => rfl
      | some j => exact tap_teNotice_self i _ u)
    (fun i k u _ h => by
      unfold swapNotice
      split
      · rfl
      · exact tap_teNotice_ne i k _ u h) q.zonesInUse (nodup_zonesInUse q) t (fun _ => rfl) z
  simpa using this

theorem tapMoves_swapNotices (q : Plan) (t : State) (z : Fin 48) :
    TapMoves z t (forEach q.zonesInUse (swapNotice q) t) :=
  TapMoves.forEach _ (fun k _ u => by
    unfold swapNotice
    split
    · exact TapMoves.refl z u
    · exact TapMoves.teNotice k _ u) t

/-! ### The swap (R117) -/

/-- The state of a swap once every block has taken the new plan, before PL's notices. -/
def swapped (p q : Plan) (t : State) : State := teSwap q (seSwap p q (plSwapPlans q t))

section
variable (p q : Plan) (t : State)

theorem keeps_swapped : KeepsAllBut [.areas, .taps, .loadState, .live, .standby, .outcome] t (swapped p q t) := by
  have h : KeepsAllBut [.areas, .taps, .loadState, .live, .standby, .outcome] t (plSwapPlans q t) :=
    fun x hx => by cases x <;> first | rfl | exact absurd (by decide) hx
  exact h.seSwap.teSwap

theorem loader_swapped : (swapped p q t).loader =
    { t.loader with state := .idle, live := some q, standby := none, outcome := .swapped } := by
  have h : KeepsAllBut [.areas, .taps] (plSwapPlans q t) (swapped p q t) := (KeepsAllBut.refl _).seSwap.teSwap
  rw [loader_of_keeps h]
  rfl

theorem area_swapped (a : Fin 8) : (swapped p q t).area a = swapRenews p q a (t.area a) := by
  have h : KeepsAllBut [.taps] (seSwap p q (plSwapPlans q t)) (swapped p q t) := (KeepsAllBut.refl _).teSwap
  rw [area_of_keeps h, area_seSwap]
  rfl

theorem tap_swapped (z : Fin 48) : (swapped p q t).tap z =
    if z.val < q.zoneCount then { t.tap z with trim := q.trim z.val } else t.tap z := by
  have h : KeepsAllBut [.areas] (plSwapPlans q t) (seSwap p q (plSwapPlans q t)) := (KeepsAllBut.refl _).seSwap
  unfold swapped
  rw [tap_teSwap, tap_of_keeps h]
  rfl

theorem Marked.swapped {off : Nat} (h : Marked t off) : Marked (swapped p q t) off :=
  h.congr (keeps_swapped p q t .dirty (by decide)) (keeps_swapped p q t .ownRW (by decide))

/-- A swap, in what it leaves. -/
theorem plSwap_eq : plSwap p q t = ((forEach q.zonesInUse (swapNotice q) (swapped p q t)).request .planSwapped 0 q.planSum
    (word (swapNoticeCount q (swapped p q t)))).statusChange 17 := rfl

theorem keeps_plSwap_notices : KeepsAllBut (.taps :: reportParts) (swapped p q t) (plSwap p q t) := by
  have h : KeepsAllBut (.taps :: reportParts) (swapped p q t) (forEach q.zonesInUse (swapNotice q) (swapped p q t)) := by
    refine .forEach _ (fun z u hu => ?_) (.refl _)
    unfold swapNotice
    split
    · exact hu
    · exact hu.teNotice
  exact h.request.statusChange

theorem area_plSwap (a : Fin 8) : (plSwap p q t).area a = swapRenews p q a (t.area a) := by
  rw [area_of_keeps (keeps_plSwap_notices p q t) a, area_swapped]

theorem elected_swapRenews (a : Fin 8) (r : AreaRec) : (swapRenews p q a r).elected = r.elected := by
  unfold swapRenews
  split <;> rfl

theorem tap_plSwap (z : Fin 48) : (plSwap p q t).tap z =
    if z.val < q.zoneCount then
      TapRec.swapTold q z { t.tap z with trim := q.trim z.val } (t.area (areaNo (q.zoneArea z.val))).elected
    else t.tap z := by
  rw [plSwap_eq, tap_statusChange, tap_request, tap_swapNotices, tap_swapped, area_swapped, elected_swapRenews]
  split <;> rfl

theorem Marked.plSwap {off : Nat} (h : Marked t off) : Marked (plSwap p q t) off := by
  have hE := stable_marked (fun _ _ => True) off
  exact hE.statusChange _ (hE.request _ _ _ _ trivial (hE.swapNotices p q h))

theorem marked_plSwap : Marked (plSwap p q t) 17 := marked_statusChange _ _

theorem swapNoticeCount_eq : swapNoticeCount q (swapped p q t) = ((List.finRange 48).filter fun z =>
    decide (z.val < q.zoneCount) && ((plSwap p q t).area (areaNo (q.zoneArea z.val))).elected.isSome).length := by
  have harea (a : Fin 8) : (swapped p q t).area a = (plSwap p q t).area a := by rw [area_swapped, area_plSwap]
  unfold swapNoticeCount Plan.zonesInUse
  simp only [List.filter_filter, harea, Bool.and_comm]

/-- The status word of a zone is marked where the swap's notices, or what came before the swap, changed what it shows of
TE. -/
theorem marked_plSwap_tap {r : TapRec} {z : Fin 48}
    (h : (t.tap z).glide.isGliding ≠ r.glide.isGliding ∨ (t.tap z).pendingTarget.isSome ≠ r.pendingTarget.isSome →
      Marked t (54 + z.val))
    (hne : ((plSwap p q t).tap z).glide.isGliding ≠ r.glide.isGliding ∨
      ((plSwap p q t).tap z).pendingTarget.isSome ≠ r.pendingTarget.isSome) :
    Marked (plSwap p q t) (54 + z.val) := by
  by_cases ht : (t.tap z).glide.isGliding ≠ r.glide.isGliding ∨
      (t.tap z).pendingTarget.isSome ≠ r.pendingTarget.isSome
  · exact Marked.plSwap p q t (h ht)
  · obtain ⟨hg, hp⟩ := not_or.1 ht
    obtain ⟨⟨x, hx, hxm⟩, _⟩ := tapMoves_swapNotices q (swapped p q t) z
    have hb : (swapped p q t).tap z = { t.tap z with trim := ((swapped p q t).tap z).trim } := by
      rw [tap_swapped]
      split <;> rfl
    have he : (plSwap p q t).tap z = (forEach q.zonesInUse (swapNotice q) (swapped p q t)).tap z := by
      rw [plSwap_eq, tap_statusChange, tap_request]
    rw [he, hx, hb] at hne
    rw [hb] at hxm
    refine Marked.statusChange _ (Marked.request _ _ _ _ (hxm fun e => ?_))
    rcases hne with hne | hne
    · exact hg hne
    · exact hp fun e' => hne (e.trans e')

end

/-! ### The frame mark that swaps -/

theorem plMark_swap {p q : Plan} {t : State} (hs : t.loader.state = .waitingSwap) (hq : t.loader.standby = some q) :
    plMark p t = plSwap p q t := by
  unfold plMark
  rw [if_pos hs, hq]

/-- Settles O33: the blocks' work under the old plan (`beforeSwap`), then the swap (`plSwap`). -/
theorem frameMarkSwapsThePlans : Obligations.FrameMarkSwapsThePlans := by
  unfold Obligations.FrameMarkSwapsThePlans
  intro s p q stamp c hc h hpl hwait hstandby hpassq
  obtain ⟨hl, hpass⟩ := hpl
  have same := sameLayout_of_pass hpassq
  obtain ⟨se, hse, hasks, hel⟩ := markElects_beforeSwap p stamp s (candidatesOk_of_pass hpass)
  have hload := loader_beforeSwap p stamp s
  generalize hb : beforeSwap p stamp s = b at hasks hel hload
  have hfw : frameWork p stamp (s.stamped stamp) = plSwap p q b := by
    rw [frameWork_eq, hb, plMark_swap (by rw [hload]; exact hwait) (by rw [hload]; exact hstandby)]
  have asked := plMark_asks p hasks
  rw [plMark_swap (by rw [hload]; exact hwait) (by rw [hload]; exact hstandby)] at asked
  have hswap : swapAsks p b = [⟨.planSwapped, 0, q.planSum, word (swapNoticeCount q (swapped p q b))⟩] := by
    unfold swapAsks
    rw [if_pos (by rw [hload]; exact hwait), hload, hstandby]
    rfl
  have hlist (sw : List Request) : markRequests p s se [] ++ sw = markRequests p s se sw := by simp [markRequests]
  rw [hswap, hlist, ← hfw] at asked
  have harea (a : Fin 8) : (marked p stamp s).area a = swapRenews p q a (b.area a) := by
    show (frameWork p stamp (s.stamped stamp)).area a = _
    rw [hfw, area_plSwap]
  have htap (z : Fin 48) : (marked p stamp s).tap z = (plSwap p q b).tap z := by
    show (frameWork p stamp (s.stamped stamp)).tap z = _
    rw [hfw]
  have keeps := keeps_plSwap_notices p q b
  have markAsks := markAsks_of p stamp s hse
    (fun r hr => by rw [List.mem_singleton.1 hr]; exact ⟨rfl, rfl, hwait⟩) asked
  rw [← hlist] at markAsks
  refine ⟨marked p stamp s, markRequests p s se [], _, exec_frameMark hc h hl, markAsks, ?_, ?_, ?_, ?_,
    fun r hr => ?_, fun a i ha hi hne => ?_, fun a hcn => ?_, fun z hz => ?_, fun z hz => ?_⟩
  · show (frameWork p stamp (s.stamped stamp)).loader = _
    rw [hfw, loader_of_keeps keeps, loader_swapped, hload]
  · show (frameWork p stamp (s.stamped stamp)).command = _
    rw [hfw, command_of_keeps keeps, command_of_keeps (keeps_swapped p q b), ← hb, command_beforeSwap]
  · exact marked_of_frameWork p stamp s (by rw [hfw]; exact marked_plSwap p q b)
  · rw [swapNoticeCount_eq]
    simp only [harea, area_plSwap]
  · unfold markRequests at hr
    simp only [List.mem_append, List.append_nil] at hr
    rcases hr with (hr | hr) | hr
    · rw [(of_mem_recoveries hr).1]; decide
    · rw [(hse r hr).1]; decide
    · rw [(of_mem_feeds hr).1]; decide
  · rw [harea, swapRenews, if_pos ha]
    simp [AreaRec.level, hi, hne]
  · obtain ⟨hsw, hrec, _, hmark⟩ := hel a hcn
    refine decidedAtMark_of (by rw [harea, hrec]) (by rw [requestsOf_elected (by simp), hsw]) fun x hx => ?_
    exact marked_of_frameWork p stamp s (by rw [hfw]; exact Marked.plSwap p q b (hmark x hx))
  · rw [htap, tap_plSwap, if_neg (by omega), ← hb, tap_beforeSwap_unused p stamp s z (by rw [← same.zoneCount]; exact hz)]
  · have hzp : z.val < p.zoneCount := by rw [← same.zoneCount]; exact hz
    obtain ⟨_, _, hst, _⟩ := stamped_records s stamp
    have moves := tapMoves_beforeSwap p stamp s z
    rw [hb] at moves
    have own : (teMark p (s.stamped stamp)).tap z =
        tapAfterMark (s.tap z) (p.glideFrames (p.zoneArea z.val)) := by
      rw [tap_teMark, hst, ownAfterMark_eq hzp]
    obtain ⟨x, hx, _⟩ := moves.1
    rw [own] at hx
    have hmark := marked_of_tapMoves hzp moves
    rw [hst] at hmark
    have hsat : (tapAfterMark (s.tap z) (p.glideFrames (p.zoneArea z.val))).saturations = (s.tap z).saturations := by
      rw [← markedTap_eq]
      unfold markedTap
      repeat' split
      all_goals rfl
    dsimp only
    have hfin := tap_plSwap p q b z
    rw [if_pos hz] at hfin
    have helt (a : Fin 8) (ha : a.val = q.zoneArea z.val) : (b.area (areaNo (q.zoneArea z.val))).elected =
        ((marked p stamp s).area a).elected := by
      rw [harea, elected_swapRenews, areaNo_val ha]
    refine ⟨?_, ?_, ?_, fun a ha => ⟨fun i hi => ?_, fun hcn hn => ?_⟩, fun hne => ?_⟩
    · rw [htap, hfin]
      unfold TapRec.swapTold
      split <;> rfl
    · rw [htap, hfin, hx]
      unfold TapRec.swapTold
      split <;> rfl
    · rw [htap, hfin, hx]
      unfold TapRec.swapTold
      split <;> exact hsat
    · rw [htap, hfin, helt a ha, hi, hx]
      simp only [TapRec.swapTold, noticed_eq]
    · rw [htap, hfin, helt a ha, hn]
      obtain ⟨_, hrec, htaps, _⟩ := hel a hcn
      have hz' := htaps z ((mem_zonesOf p a z).2 ⟨hzp, by rw [← same.zoneArea z.val hz, ha]⟩)
      rw [ownAfterMark_eq hzp] at hz'
      rw [hz']
      rw [harea, elected_swapRenews, hrec] at hn
      cases hsw : markSwitch p a s with
      | none => rfl
      | some y =>
        rw [← ((elected_markRecord p a s).1 y hsw).1, hn]
        rfl
    · rw [htap] at hne
      exact marked_of_frameWork p stamp s (by rw [hfw]; exact marked_plSwap_tap p q b hmark hne)

end Sys2Proof.Machine
end

section
/-!
PROOFS. The alignment invariant (O59): what it says of the plans, the sources, the collections and the delays, each with
the parts of the state it depends on, and what each piece of the blocks' work does to it.
-/
namespace Sys2Proof.Machine

-- one theorem after another, as in the tests: side by side they take more threads than the memory limit allows
set_option Elab.async false

/-! ### The four parts of the invariant -/

/-- `PlansOk` without what it says of a reset that lasts. -/
structure PlansStand (s : State) : Prop where
  device : s.loader.live.isSome ↔ s.command.device = .ready ∨ s.command.device = .service
  live : ∀ p, s.loader.live = some p → planResult s.path.straps none p = .pass
  standby : ∀ q, s.loader.standby = some q →
    ∃ p, s.loader.live = some p ∧ planResult s.path.straps (some p) q = .pass
  waits : s.loader.standby.isSome ↔ s.loader.state = .waitingSwap

/-- The alignment invariant without what it says of a reset that lasts. -/
structure Aligned (s : State) : Prop where
  plans : PlansStand s
  sources : ElectionOk s
  collections : CollectionsOk s
  delays : DelaysOk s

/-- What the invariant says of a reset that lasts (R101, R110). -/
def InReset (s : State) : Prop :=
  s.path.resetHeld = true →
    s.path = MemPath.reset s.path.straps ∧ s.command.device = .starting ∧ s.loader.state = .idle

theorem alignmentOk_iff (s : State) : AlignmentOk s ↔ Aligned s ∧ InReset s := by
  constructor
  · rintro ⟨⟨h1, h2, h3, h4, h5⟩, he, hc, hd⟩
    exact ⟨⟨⟨h1, h2, h3, h4⟩, he, hc, hd⟩, h5⟩
  · rintro ⟨⟨⟨h1, h2, h3, h4⟩, he, hc, hd⟩, h5⟩
    exact ⟨⟨h1, h2, h3, h4, h5⟩, he, hc, hd⟩

theorem PlansStand.of_keeps {c : List Part} {s t : State} (h : PlansStand s) (k : KeepsAllBut c s t)
    (hc : ∀ q ∈ [Part.straps, .live, .standby, .loadState, .device], q ∉ c := by decide) : PlansStand t := by
  have h1 : t.path.straps = s.path.straps := k .straps (hc _ (by decide))
  have h2 : t.loader.live = s.loader.live := k .live (hc _ (by decide))
  have h3 : t.loader.standby = s.loader.standby := k .standby (hc _ (by decide))
  have h4 : t.loader.state = s.loader.state := k .loadState (hc _ (by decide))
  have h5 : t.command.device = s.command.device := k .device (hc _ (by decide))
  obtain ⟨a, b, d, e⟩ := h
  exact ⟨by rw [h2, h5]; exact a, by rw [h1, h2]; exact b, by rw [h1, h2, h3]; exact d, by rw [h3, h4]; exact e⟩

theorem electionOk_of {s t : State} (h : ElectionOk s) (hl : t.loader.live = s.loader.live)
    (ha : ∀ a, t.area a = s.area a) : ElectionOk t := fun a => by
  rw [ha, hl]
  exact h a

theorem collectionsOk_of {s t : State} (h : CollectionsOk s) (ha : ∀ a, t.area a = s.area a) : CollectionsOk t :=
  fun a => by rw [ha]; exact h a

theorem delaysOk_of {s t : State} (h : DelaysOk s) (hl : t.loader.live = s.loader.live)
    (hz : ∀ (p : Plan) (z : Fin 48), s.loader.live = some p → z.val < p.zoneCount →
      (s.tap z).within (p.delayBound z.val) → (t.tap z).within (p.delayBound z.val)) : DelaysOk t :=
  fun p hp z hzu => by
    rw [hl] at hp
    exact hz p z hp hzu (h p hp z hzu)

/-- The parts of the state the invariant reads. -/
def alignParts : List Part := [.straps, .live, .standby, .loadState, .device, .areas, .taps]

namespace Aligned

variable {s t : State}

theorem of_keeps {c : List Part} (h : Aligned s) (k : KeepsAllBut c s t)
    (hc : ∀ q ∈ alignParts, q ∉ c := by decide) : Aligned t := by
  have hl : t.loader.live = s.loader.live := k .live (hc _ (by decide))
  have ha (a : Fin 8) : t.area a = s.area a := area_of_keeps k a (hc _ (by decide))
  have hz (z : Fin 48) : t.tap z = s.tap z := tap_of_keeps k z (hc _ (by decide))
  obtain ⟨hp, he, hco, hd⟩ := h
  exact ⟨hp.of_keeps k fun q hq => hc q (by revert q; decide), electionOk_of he hl ha, collectionsOk_of hco ha,
    delaysOk_of hd hl fun p z _ _ hw => by rw [hz]; exact hw⟩

/-- Work on tap records that keeps their delays within their bounds keeps the invariant. -/
theorem of_taps {c : List Part} (h : Aligned s) (k : KeepsAllBut c s t)
    (hz : ∀ (p : Plan) (z : Fin 48), s.loader.live = some p → z.val < p.zoneCount →
      (s.tap z).within (p.delayBound z.val) → (t.tap z).within (p.delayBound z.val))
    (hc : ∀ q ∈ [Part.straps, .live, .standby, .loadState, .device, .areas], q ∉ c := by decide) : Aligned t := by
  have hl : t.loader.live = s.loader.live := k .live (hc _ (by decide))
  have ha (a : Fin 8) : t.area a = s.area a := area_of_keeps k a (hc _ (by decide))
  obtain ⟨hp, he, hco, hd⟩ := h
  exact ⟨hp.of_keeps k fun q hq => hc q (by revert q; decide), electionOk_of he hl ha, collectionsOk_of hco ha,
    delaysOk_of hd hl hz⟩

theorem request (h : Aligned s) (k : ReportKind) (n : Nat) (a b : Word) : Aligned (s.request k n a b) :=
  h.of_keeps (keeps_request s k n a b)

theorem statusChanges (h : Aligned s) (l : List Nat) : Aligned (s.statusChanges l) :=
  h.of_keeps (keeps_statusChanges s l)

theorem statusChange (h : Aligned s) (off : Nat) : Aligned (s.statusChange off) := h.statusChanges [off]

/-- A live plan has passed the checks, so its candidates and zones are what the checks say. -/
theorem pass {p : Plan} (h : Aligned s) (hl : s.loader.live = some p) : planResult s.path.straps none p = .pass :=
  h.plans.live p hl

end Aligned

/-! ### Tap records (R42) -/

theorem within_congr {r r' : TapRec} {b : Nat} (h : r.within b) (hg : r'.glide = r.glide)
    (hp : r'.pendingTarget = r.pendingTarget) : r'.within b := by
  unfold TapRec.within
  rw [hg, hp]
  exact h

theorem within_noticed {r : TapRec} {b d : Nat} (h : r.within b) (hd : d ≤ b) :
    ({ r with pendingTarget := noticed r d } : TapRec).within b := by
  refine ⟨h.1, fun t ht => ?_⟩
  unfold noticed at ht
  split at ht <;> cases ht
  exact hd

/-- R42: what `TapRec.within` says of a glide. -/
def Glide.inBound (b : Nat) : Glide → Prop
  | .steady d => d ≤ b
  | .gliding c d k g => c ≤ b ∧ d ≤ b ∧ k < g

theorem within_iff (r : TapRec) (b : Nat) :
    r.within b ↔ r.glide.inBound b ∧ ∀ t, r.pendingTarget = some t → t ≤ b := by
  unfold TapRec.within Glide.inBound
  cases r.glide <;> rfl

theorem inBound_steadyMark {d b n : Nat} {x : Option Nat} (hd : d ≤ b) (hx : ∀ t, x = some t → t ≤ b) (hn : 1 ≤ n) :
    (steadyMark d x n).inBound b := by
  unfold steadyMark
  cases x with
  | none => exact hd
  | some t =>
    dsimp only
    split
    · exact hd
    · exact ⟨hd, hx t rfl, hn⟩

/-- TE's own work at a mark keeps every delay within its bound, and starts a glide at a step below its length. -/
theorem within_markedTap {r : TapRec} {b n : Nat} (h : r.within b) (hn : 1 ≤ n) : (markedTap r n).within b := by
  rw [within_iff] at h ⊢
  obtain ⟨hg, hp⟩ := h
  unfold markedTap
  cases hr : r.glide with
  | steady d =>
    rw [hr] at hg
    exact ⟨inBound_steadyMark hg hp hn, fun t ht => (by cases ht)⟩
  | gliding a c k g =>
    rw [hr] at hg
    obtain ⟨ha, hc, hk⟩ := hg
    dsimp only
    split
    · rename_i hlt
      exact ⟨⟨ha, hc, hlt⟩, hp⟩
    · exact ⟨inBound_steadyMark hc hp hn, fun t ht => (by cases ht)⟩

section
variable {s : State}

theorem Aligned.setTap (h : Aligned s) (z : Fin 48) {r : TapRec} (hg : r.glide = (s.tap z).glide)
    (hp : r.pendingTarget = (s.tap z).pendingTarget) : Aligned (s.setTap z r) :=
  h.of_taps (c := [.taps]) (KeepsAllBut.refl s).setTap fun p k _ _ hw => by
    rw [tap_setTap]
    split
    · rename_i e
      subst e
      exact within_congr hw hg hp
    · exact hw

theorem Aligned.teBoundFailure (h : Aligned s) (z : Fin 48) (d : Nat) (x : Int) (b : Bound) :
    Aligned (teBoundFailure z d x b s) := by
  unfold Machine.teBoundFailure
  dsimp only
  split
  · exact h
  · split
    · exact h
    · exact (h.setTap z (r := { s.tap z with earlyReported := true }) rfl rfl).request _ _ _ _
  · split
    · exact h
    · exact (h.setTap z (r := { s.tap z with lateReported := true }) rfl rfl).request _ _ _ _

/-- Notices to zones of a list, of delays within their bounds. -/
theorem Aligned.notices (h : Aligned s) (l : List (Fin 48)) (hn : l.Nodup) (d : Fin 48 → Nat)
    (hd : ∀ (p : Plan) (z : Fin 48), s.loader.live = some p → z.val < p.zoneCount → z ∈ l → d z ≤ p.delayBound z.val) :
    Aligned (forEach l (fun z => teNotice z (d z)) s) :=
  h.of_taps (keeps_notices s l d) fun p z hl hz hw => by
    rw [tap_notices l hn]
    split
    · rename_i hm
      exact within_noticed hw (hd p z hl hz hm)
    · exact hw

/-! ### Areas (R23, R27) -/

/-- A record whose source and pin are in order under the live plan. -/
def SourceOk (s : State) (a : Fin 8) (r : AreaRec) : Prop :=
  (∀ i, r.pin = some i → r.elected = some i) ∧
    ∀ i, r.elected = some i → ∃ p, s.loader.live = some p ∧ a.val < p.areaCount ∧ i.val < p.candCount a.val

theorem Aligned.setArea (h : Aligned s) (a : Fin 8) {r : AreaRec} (hr : SourceOk s a r) (hc : r.collectsNothing) :
    Aligned (s.setArea a r) := by
  obtain ⟨hp, he, hco, hd⟩ := h
  refine ⟨hp.of_keeps (c := [.areas]) (KeepsAllBut.refl s).setArea, fun k => ?_, fun k => ?_, hd⟩
  · rw [area_setArea]
    split
    · rename_i e
      subst e
      exact hr
    · exact he k
  · rw [area_setArea]
    split
    · exact hc
    · exact hco k

theorem sourceOk_fresh (s : State) (a : Fin 8) : SourceOk s a AreaRec.fresh :=
  ⟨fun i hi => (by cases hi), fun i hi => (by cases hi)⟩

theorem collectsNothing_fresh : AreaRec.fresh.collectsNothing := ⟨rfl, rfl⟩

/-- R23, R31, R33: a switch to a source that is a candidate. -/
theorem Aligned.seSwitch (h : Aligned s) {p : Plan} (hl : s.loader.live = some p) (a i : Fin 8) (r : AreaRec)
    (ha : a.val < p.areaCount) (hi : i.val < p.candCount a.val) (hpin : ∀ j, r.pin = some j → j = i)
    (hc : r.collectsNothing) : Aligned (seSwitch p a r (some i) s) := by
  rw [seSwitch_eq]
  have h1 : Aligned (s.setArea a { r with elected := some i, dwell := 0, quiet := 0 }) :=
    h.setArea a ⟨fun j hj => by rw [hpin j hj], fun j hj => by cases hj; exact ⟨p, hl, ha, hi⟩⟩ hc
  have k : KeepsAllBut (.areas :: reportParts) s
      (((s.setArea a { r with elected := some i, dwell := 0, quiet := 0 }).request .elected a.val
        (word (sourceCode r.elected)) (word (sourceCode (some i)))).statusChange (areaOffset a)) :=
    (KeepsAllBut.refl s).setArea.request.statusChange
  refine ((h1.request _ _ _ _).statusChange _).notices _ (nodup_zonesOf p a) _
    fun q z hq _ hz => ?_
  have hlq : s.loader.live = some q := (k .live (by decide)).symm.trans hq
  obtain rfl : p = q := by rw [hl] at hlq; exact Option.some.inj hlq
  obtain ⟨hzu, hza⟩ := (mem_zonesOf p a z).1 hz
  exact (zone_of_pass (h.pass hl) hzu).2.2.2 i.val (by rw [hza]; exact hi)

theorem Aligned.sePin (h : Aligned s) {p : Plan} (hl : s.loader.live = some p) (a i : Fin 8)
    (ha : a.val < p.areaCount) (hi : i.val < p.candCount a.val) : Aligned (sePin p a i s) := by
  unfold Machine.sePin
  dsimp only
  split
  · rename_i he
    exact (h.setArea a (r := { s.area a with pin := some i, quiet := 0 })
      ⟨fun j hj => he.trans hj, (h.sources a).2⟩ (h.collections a)).statusChange _
  · exact h.seSwitch hl a i _ ha hi (fun j hj => (Option.some.inj hj).symm) (h.collections a)

theorem Aligned.seFree (h : Aligned s) (a : Fin 8) : Aligned (seFree a s) := by
  unfold Machine.seFree
  split
  · exact (h.setArea a (r := { s.area a with pin := none })
      ⟨fun j hj => (by cases hj), (h.sources a).2⟩ (h.collections a)).statusChange _
  · exact h

theorem Aligned.freshAreas (h : Aligned s) (l : List (Fin 8)) :
    Aligned (forEach l (fun a t => (t.setArea a AreaRec.fresh).statusChange (areaOffset a)) s) :=
  forEach_keeps Aligned l
    (fun a _ t ht => (ht.setArea a (sourceOk_fresh t a) collectsNothing_fresh).statusChange _) h

/-- ARM and DISARM move between READY and SERVICE, under a live plan. -/
theorem Aligned.setDevice (h : Aligned s) {d : Device} (hs : s.command.device = .ready ∨ s.command.device = .service)
    (hd : d = .ready ∨ d = .service) : Aligned (s.setDevice d) := by
  obtain ⟨⟨h1, h2, h3, h4⟩, he, hc, hdl⟩ := h
  exact ⟨⟨⟨fun _ => hd, fun _ => h1.2 hs⟩, h2, h3, h4⟩, he, hc, hdl⟩

theorem Aligned.cuArm (h : Aligned s) (p : Plan) (hs : s.command.device = .ready) : Aligned (cuArm p s) :=
  ((h.setDevice (.inl hs) (.inr rfl)).statusChange 16).freshAreas _

theorem Aligned.cuDisarm (h : Aligned s) {p : Plan} (hl : s.loader.live = some p) (hs : s.command.device = .service) :
    Aligned (cuDisarm p s) := by
  have h1 : Aligned (forEach p.areasInUse seDisarmArea ((s.setDevice .ready).statusChange 16)) :=
    ((h.setDevice (.inr hs) (.inl rfl)).statusChange 16).freshAreas _
  have k : KeepsAllBut (.device :: .areas :: statusParts) s
      (forEach p.areasInUse seDisarmArea ((s.setDevice .ready).statusChange 16)) := by
    have h0 : KeepsAllBut (.device :: .areas :: statusParts) s (s.setDevice .ready) :=
      fun q hq => by cases q <;> first | rfl | exact absurd (by decide) hq
    exact .forEach _ (fun _ _ hu => hu.setArea.statusChange) h0.statusChange
  have h2 : Aligned (seDisarm p ((s.setDevice .ready).statusChange 16)) := by
    refine h1.notices _ (nodup_zonesInUse p) _ fun q z hq hz _ => ?_
    have hlq : s.loader.live = some q := (k .live (by decide)).symm.trans hq
    obtain rfl : p = q := by rw [hl] at hlq; exact Option.some.inj hlq
    exact (zone_of_pass (h.pass hl) hz).2.2.1
  exact h2.of_keeps (c := .watch :: statusParts) (KeepsAllBut.refl _).awDisarm

end

end Sys2Proof.Machine
end

section
/-!
PROOFS. The alignment invariant (O59) through the work of PL, a frame mark, posts, words and events, and so through every
command.
-/
namespace Sys2Proof.Machine

-- one theorem after another, as in the tests: side by side they take more threads than the memory limit allows
set_option Elab.async false

namespace Aligned

variable {s : State}

/-! ### The plan loader (chapter 6) -/

/-- PL's state is no one's concern but WAITING_SWAP's: a change of PL that keeps plans and neither enters nor leaves
WAITING_SWAP. -/
theorem setLoader (h : Aligned s) {l : Loader} (h1 : l.live = s.loader.live) (h2 : l.standby = s.loader.standby)
    (h3 : l.state = .waitingSwap ↔ s.loader.state = .waitingSwap) : Aligned (s.setLoader l) := by
  obtain ⟨⟨a, b, c, d⟩, he, hc, hd⟩ := h
  refine ⟨⟨?_, ?_, ?_, ?_⟩, electionOk_of he h1 fun _ => rfl, hc, delaysOk_of hd h1 fun _ _ _ _ hw => hw⟩
  · show l.live.isSome ↔ _
    rw [h1]
    exact a
  · show ∀ p, l.live = some p → _
    rw [h1]
    exact b
  · show ∀ q, l.standby = some q → ∃ p, l.live = some p ∧ _
    rw [h1, h2]
    exact c
  · show l.standby.isSome ↔ l.state = .waitingSwap
    rw [h2, h3]
    exact d

theorem plIssueRead (h : Aligned s) : Aligned (plIssueRead s) :=
  (h.setLoader (l := { s.loader with readInFlight := true }) rfl rfl Iff.rfl).of_keeps (c := [.ownPL])
    (KeepsAllBut.refl _).issuePL

theorem plLoad (h : Aligned s) (hi : s.loader.state = .idle) : Aligned (plLoad s) := by
  unfold Machine.plLoad
  dsimp only
  have h1 : Aligned (s.setLoader
      { s.loader with state := .reading, cursor := 1024, torn := none, sum := 0, loadWords := [] }) :=
    h.setLoader rfl rfl (by simp [hi])
  split
  · exact h1.statusChange _
  · exact h1.plIssueRead.statusChange _

theorem plReadDone (h : Aligned s) (v : Word) : Aligned (plReadDone v s) := by
  unfold Machine.plReadDone
  dsimp only
  split
  · have h1 : Aligned (s.setLoader { s.loader with staleRead := false }) := h.setLoader rfl rfl Iff.rfl
    split
    · exact h1.plIssueRead
    · exact h1
  · split
    · rename_i hr
      unfold plReceive
      dsimp only
      have h1 : Aligned (s.setLoader (s.loader.received v)) := h.setLoader rfl rfl Iff.rfl
      split
      · exact h1.plIssueRead
      · refine (h1.setLoader (l := { (s.loader.received v) with state := .checking }) rfl rfl ?_).statusChange 17
        show LoadState.checking = _ ↔ s.loader.state = _
        simp [hr.1]
    · exact h

theorem plPlanWrite (h : Aligned s) (off : Nat) : Aligned (plPlanWrite off s) := by
  unfold Machine.plPlanWrite
  split
  · exact h.setLoader rfl rfl Iff.rfl
  · exact h

theorem plReject (h : Aligned s) (hc : s.loader.state = .checking) (why : LoadOutcome) (a b : Word) :
    Aligned (plReject why a b s) :=
  ((h.setLoader (l := { s.loader with state := .idle, loadWords := [], torn := none, outcome := why }) rfl rfl
    (by simp [hc])).request _ _ _ _).statusChange _

/-- Without a live plan no plan stands by. -/
theorem standby_none (h : Aligned s) (hl : s.loader.live = none) : s.loader.standby = none := by
  cases hs : s.loader.standby with
  | none => rfl
  | some q =>
    obtain ⟨p, hp, _⟩ := h.plans.standby q hs
    rw [hl] at hp
    cases hp

theorem plInstall (h : Aligned s) {p : Plan} (hl : s.loader.live = none)
    (hp : planResult s.path.straps none p = .pass) : Aligned (plInstall p s) := by
  refine Aligned.statusChanges (Aligned.statusChanges (Aligned.request ?_ _ _ _ _) _) _
  have fresh (a : Fin 8) : (plInstalled p s).area a = AreaRec.fresh := by
    simp [State.area, plInstalled]
  refine ⟨⟨?_, ?_, ?_, ?_⟩, fun a => ?_, fun a => ?_, fun q hq z hz => ?_⟩
  · exact ⟨fun _ => .inl rfl, fun _ => rfl⟩
  · intro q hq
    obtain rfl : p = q := Option.some.inj hq
    exact hp
  · intro q hq
    have : s.loader.standby = some q := hq
    rw [h.standby_none hl] at this
    cases this
  · show s.loader.standby.isSome ↔ LoadState.idle = .waitingSwap
    rw [h.standby_none hl]
    simp
  · rw [fresh]
    exact sourceOk_fresh _ a
  · rw [fresh]
    exact collectsNothing_fresh
  · obtain rfl : p = q := Option.some.inj hq
    have ht : (plInstalled p s).tap z = TapRec.start p z := by
      simp [State.tap, plInstalled, installedTaps, hz]
    rw [ht]
    exact ⟨(zone_of_pass hp hz).2.2.1, fun t ht => (by cases ht)⟩

theorem plHold (h : Aligned s) {p q : Plan} (hl : s.loader.live = some p)
    (hq : planResult s.path.straps (some p) q = .pass) : Aligned (plHold q s) := by
  refine Aligned.statusChange (Aligned.request ?_ _ _ _ _) _
  obtain ⟨⟨a, b, _, _⟩, he, hc, hd⟩ := h
  refine ⟨⟨a, b, fun r hr => ?_, ?_⟩, he, hc, hd⟩
  · obtain rfl : q = r := Option.some.inj hr
    exact ⟨p, hl, hq⟩
  · exact ⟨fun _ => rfl, fun _ => rfl⟩

/-- The checks of a load that pass have passed on its words beside the live plan (R113). -/
theorem planResult_of_checkLoad {straps : BitVec 6} {l : Loader} (h : checkLoad straps l = .pass) :
    planResult straps l.live l.loadWords = .pass := by
  unfold checkLoad at h
  split at h
  · cases h
  · split at h
    · exact h
    · cases h

theorem plEndOfChecks (h : Aligned s) : Aligned (plEndOfChecks s) := by
  unfold Machine.plEndOfChecks
  split
  · rename_i hc
    dsimp only
    split
    · exact h.plReject hc _ _ _
    · exact h.plReject hc _ _ _
    · exact h.plReject hc _ _ _
    · exact h.plReject hc _ _ _
    · rename_i hp
      have hp := planResult_of_checkLoad hp
      unfold plPass
      split
      · rename_i hl
        rw [hl] at hp
        exact h.plInstall hl hp
      · rename_i q hl
        rw [hl] at hp
        exact h.plHold hl hp
  · exact h

/-- R119, R134: the part without a plan and out of SERVICE. -/
theorem plDrop (h : Aligned s) : Aligned (plDrop s) := by
  refine Aligned.statusChanges (Aligned.statusChanges ?_ _) _
  have hs : (plAbandon s).loader.standby = none := by
    unfold plAbandon
    split
    · rename_i hi
      cases hq : s.loader.standby with
      | none => rfl
      | some q =>
        have := h.plans.waits.1 (by simp [hq])
        rw [hi] at this
        cases this
    · simp
  have fresh (a : Fin 8) : (droppedState (plAbandon s)).area a = AreaRec.fresh := by
    simp [State.area, droppedState]
  refine ⟨⟨?_, ?_, ?_, ?_⟩, fun a => ?_, fun a => ?_, ?_⟩
  · exact ⟨fun h => (by cases h), fun h => (by rcases h with h | h <;> cases h)⟩
  · exact fun p hp => (by cases hp)
  · intro q hq
    have : (plAbandon s).loader.standby = some q := hq
    rw [hs] at this
    cases this
  · show (plAbandon s).loader.standby.isSome ↔ LoadState.idle = .waitingSwap
    rw [hs]
    simp
  · rw [fresh]
    exact sourceOk_fresh _ a
  · rw [fresh]
    exact collectsNothing_fresh
  · exact fun p hp => (by cases hp)

/-! ### A frame mark (R52 to R55, R24 to R31, R117) -/

/-- A decision's switch to a source is one to a candidate. -/
theorem decidedSwitch_candidate {p : Plan} {a i : Fin 8} {w : AreaRec} (h : decidedSwitch p a w = some (some i)) :
    i.val < p.candCount a.val := by
  unfold decidedSwitch at h
  split at h
  · cases h
  · split at h
    · cases h
    · rename_i hv
      obtain rfl := Option.some.inj h
      exact ((mem_eligibles p a w i).1 (switch_mem hv)).1

theorem markSwitch_candidate {p : Plan} {a i : Fin 8} (h : markSwitch p a s = some (some i)) :
    i.val < p.candCount a.val := by
  unfold markSwitch switchSoFar at h
  split at h
  · split at h
    · exact decidedSwitch_candidate h
    · cases h
  · cases h

/-- The record a mark leaves an area is in order: a switch is to a candidate, and a pinned area keeps its source. -/
theorem sourceOk_markRecord (h : Aligned s) {p : Plan} (hl : s.loader.live = some p) (a : Fin 8) :
    SourceOk s a (markRecord p a s) := by
  unfold markRecord
  split
  · rename_i hf
    obtain ⟨hd, ha, h0⟩ := hf
    obtain ⟨h1, h2⟩ := elected_decidedRecord p a (weighedAtMark p a s)
    have hpin : (decidedRecord p a (weighedAtMark p a s)).pin = (s.area a).pin := pin_decidedRecord _ _ _
    refine ⟨fun i hi => ?_, fun i hi => ?_⟩
    · have hi' : (s.area a).pin = some i := hpin.symm.trans hi
      obtain ⟨hsw, _⟩ := decided_pinned (p := p) (a := a) (w := weighedAtMark p a s)
        (show (s.area a).pin ≠ none by rw [hi']; simp)
      exact (h2 hsw).trans ((h.sources a).1 i hi')
    · have hi' : (decidedRecord p a (weighedAtMark p a s)).elected = some i := hi
      cases hsw : decidedSwitch p a (weighedAtMark p a s) with
      | none =>
        rw [h2 hsw] at hi'
        exact (h.sources a).2 i hi'
      | some x =>
        rw [(h1 x hsw).1] at hi'
        subst hi'
        exact ⟨p, hl, ha, decidedSwitch_candidate hsw⟩
  · exact h.sources a

theorem collectsNothing_markRecord (h : Aligned s) (p : Plan) (a : Fin 8) : (markRecord p a s).collectsNothing := by
  unfold markRecord
  split
  · exact ⟨rfl, rfl⟩
  · exact h.collections a

/-- The blocks' work at a mark before the swap. -/
theorem blocksWork (h : Aligned s) {p : Plan} (hl : s.loader.live = some p) :
    Aligned (blocksWork p s.command.lastStamp s) := by
  have hp := h.pass hl
  obtain ⟨se, _, _, hel⟩ := markElects_blocksWork (candidatesOk_of_pass hp)
    (⟨rfl, asks_refl _ s⟩ : AsksAt s.command.lastStamp s [] s)
  have k := keeps_blocksWork p s.command.lastStamp s
  have hlive : (Machine.blocksWork p s.command.lastStamp s).loader.live = s.loader.live := k .live (by decide)
  refine ⟨h.plans.of_keeps k, fun a => ?_, fun a => ?_, fun q hq z hz => ?_⟩
  · rw [(hel a (h.collections a)).2.1, hlive]
    exact h.sourceOk_markRecord hl a
  · rw [(hel a (h.collections a)).2.1]
    exact h.collectsNothing_markRecord p a
  · rw [hlive, hl] at hq
    obtain rfl : p = q := Option.some.inj hq
    obtain ⟨_, harea, _, hrow⟩ := zone_of_pass hp hz
    have h8 := (counts_of_pass hp).2.1
    obtain ⟨a, ha⟩ : ∃ a : Fin 8, a.val = p.zoneArea z.val := ⟨⟨p.zoneArea z.val, by omega⟩, rfl⟩
    rw [← ha] at harea hrow
    obtain ⟨_, _, htap, _⟩ := hel a (h.collections a)
    rw [htap z ((mem_zonesOf p a z).2 ⟨hz, ha.symm⟩), ownAfterMark, if_pos hz]
    have hg := (area_of_pass hp harea).2.1
    rw [ha] at hg
    have own := within_markedTap (h.delays p hl z hz) hg
    cases hsw : markSwitch p a s with
    | none => exact own
    | some x =>
      cases x with
      | none => exact own
      | some i => exact within_noticed own (hrow i.val (markSwitch_candidate hsw))

/-- R117, R118: the swap of a mark. The plans share their layout, so bounds and candidate counts stand. -/
theorem plSwap (h : Aligned s) {p q : Plan} (hl : s.loader.live = some p) (hq : s.loader.standby = some q) :
    Aligned (plSwap p q s) := by
  obtain ⟨p', hp', hpass⟩ := h.plans.standby q hq
  obtain rfl : p = p' := by rw [hl] at hp'; exact Option.some.inj hp'
  have same := sameLayout_of_pass hpass
  have k := keeps_plSwap_notices p q s
  have hload : (Machine.plSwap p q s).loader =
      { s.loader with state := .idle, live := some q, standby := none, outcome := .swapped } := by
    rw [loader_of_keeps k, loader_swapped]
  have hdev : (Machine.plSwap p q s).command.device = s.command.device := by
    rw [command_of_keeps k, command_of_keeps (keeps_swapped p q s)]
  have hstr : (Machine.plSwap p q s).path.straps = s.path.straps :=
    Eq.trans (k .straps (by decide)) (keeps_swapped p q s .straps (by decide))
  have alone := pass_alone hpass
  refine ⟨⟨?_, fun r hr => ?_, fun r hr => ?_, ?_⟩, fun a => ?_, fun a => ?_, fun r hr z hz => ?_⟩
  · rw [hload, hdev]
    exact ⟨fun _ => h.plans.device.1 (by simp [hl]), fun _ => rfl⟩
  · rw [hload] at hr
    obtain rfl : q = r := Option.some.inj hr
    rw [hstr]
    exact alone
  · rw [hload] at hr
    cases hr
  · rw [hload]
    simp
  · rw [area_plSwap, hload]
    have hs := h.sources a
    have he := elected_swapRenews p q a (s.area a)
    have hpin : (swapRenews p q a (s.area a)).pin = (s.area a).pin := by
      unfold swapRenews
      split <;> rfl
    rw [he, hpin]
    refine ⟨hs.1, fun i hi => ?_⟩
    obtain ⟨p', hp', ha, hi⟩ := hs.2 i hi
    obtain rfl : p = p' := by rw [hl] at hp'; exact Option.some.inj hp'
    have ha' : a.val < q.areaCount := by rw [same.areaCount]; exact ha
    exact ⟨q, rfl, ha', by rw [same.candCount a.val ha']; exact hi⟩
  · rw [area_plSwap]
    unfold swapRenews
    split
    · exact h.collections a
    · exact h.collections a
  · rw [hload] at hr
    obtain rfl : q = r := Option.some.inj hr
    have hzp : z.val < p.zoneCount := by rw [← same.zoneCount]; exact hz
    obtain ⟨hline, harea, _, hrow⟩ := zone_of_pass alone hz
    have hbound : q.delayBound z.val = p.delayBound z.val := by
      unfold Plan.delayBound
      rw [same.lineLen _ hline, same.programLine z.val hz, same.frameLen]
    have hown : ({ s.tap z with trim := q.trim z.val } : TapRec).within (q.delayBound z.val) := by
      rw [hbound]
      exact within_congr (h.delays p hl z hzp) rfl rfl
    rw [tap_plSwap, if_pos hz]
    unfold TapRec.swapTold
    split
    · exact hown
    · rename_i i hi
      have h8 := (counts_of_pass alone).2.1
      have hno : areaNo (q.zoneArea z.val) = ⟨q.zoneArea z.val, by omega⟩ := areaNo_val rfl
      rw [hno] at hi
      obtain ⟨p', hp', _, hic⟩ := (h.sources _).2 i hi
      obtain rfl : p = p' := by rw [hl] at hp'; exact Option.some.inj hp'
      exact within_noticed hown (hrow i.val (by rw [same.candCount _ harea]; exact hic))

theorem cuFrameMark (h : Aligned s) (stamp : Word) : Aligned (cuFrameMark stamp s) := by
  have h1 : Aligned (s.setCommand { s.command with lastStamp := stamp }) :=
    h.of_keeps (c := [.lastStamp]) fun q hq => by cases q <;> first | rfl | exact absurd (by decide) hq
  unfold Machine.cuFrameMark
  dsimp only
  split
  · exact h1
  · rename_i p hl
    rw [frameWork_blocksWork]
    have h2 := h1.blocksWork (p := p) hl
    unfold plMark
    split
    · split
      · exact h2
      · rename_i q hq
        exact h2.plSwap (Eq.trans (keeps_blocksWork p _ _ .live (by decide)) hl) hq
    · exact h2

end Aligned

end Sys2Proof.Machine
end

section
/-!
PROOFS. The alignment invariant through posts, words, events and every command, and through resets: O59.
-/
namespace Sys2Proof.Machine

-- one theorem after another, as in the tests: side by side they take more threads than the memory limit allows
set_option Elab.async false

/-- What a post that is DONE says: its command is taken in the device state, with operands in range, under its own
condition (R129). -/
theorem of_postOutcome_done {s : State} {code : Nat} {o : Vector Word 4} (h : postOutcome s code o = .done) :
    ∃ c, commandOf code = some c ∧ takenIn c s.command.device = true ∧
      operandsOk (planBase s.path.straps) s.loader.live c o = true ∧ ownConditionOk s c o = true := by
  unfold postOutcome at h
  split at h
  · cases h
  · rename_i c hc
    split at h
    · rename_i h1
      split at h
      · rename_i h2
        split at h
        · rename_i h3
          exact ⟨c, hc, h1, h2, h3⟩
        · cases h
      · cases h
    · cases h

namespace Aligned

variable {s : State}

/-! ### Posts (7.4) -/

theorem execute (h : Aligned s) {c : Command} {o : Vector Word 4} (h1 : takenIn c s.command.device = true)
    (h2 : operandsOk (planBase s.path.straps) s.loader.live c o = true) (h3 : ownConditionOk s c o = true) :
    Aligned (execute c o s) := by
  unfold Machine.execute
  split
  · exact h.plLoad (by simpa [ownConditionOk] using h3)
  · exact h.of_keeps (c := .watch :: statusParts) (KeepsAllBut.refl s).awCommand
  · exact h.plDrop
  · exact h.cuArm _ (by simpa [takenIn] using h1)
  · rename_i p hl
    exact h.cuDisarm hl (by simpa [takenIn] using h1)
  · rename_i p hl
    rw [hl] at h2
    obtain ⟨ha, hi⟩ : o[0].toNat < p.areaCount ∧ o[1].toNat < p.candCount o[0].toNat := by simpa [operandsOk] using h2
    have hp := h.pass hl
    have ha8 := (counts_of_pass hp).2.1
    have hi8 := (area_of_pass hp ha).1
    have ea : (areaNo o[0].toNat).val = o[0].toNat := Nat.mod_eq_of_lt (by omega)
    have ei : (Fin.ofNat 8 o[1].toNat).val = o[1].toNat := Nat.mod_eq_of_lt (by omega)
    exact h.sePin hl _ _ (by rw [ea]; exact ha) (by rw [ea, ei]; exact hi)
  · exact h.seFree _
  · refine h.of_keeps (c := .guards :: statusParts) ?_
    unfold cuMute
    split
    · exact .forEach _ (fun _ _ hu => hu.zcMute) (.refl s)
    · exact (KeepsAllBut.refl s).zcMute
  · exact h.of_keeps (c := .guards :: statusParts) (KeepsAllBut.refl s).zcProof
  · refine h.of_keeps (c := .lines :: statusParts) ?_
    unfold cuClear
    split
    · exact .forEach _ (fun _ _ hu => hu.ltClear) (.refl s)
    · exact (KeepsAllBut.refl s).ltClear
  · exact (h.setTap _ (r := { s.tap _ with saturations := 0 }) rfl rfl).of_keeps (c := [.guards])
      (KeepsAllBut.refl _).setGuard
  all_goals exact h

theorem cuPost (h : Aligned s) (v : Word) : Aligned (cuPost v s) := by
  unfold Machine.cuPost
  split
  · unfold cuTakePost
    dsimp only
    have h1 : Aligned (s.setCommand { s.command with
        slot := .answering, latched := s.command.shadow, lastTag := some (postTag v) }) :=
      h.of_keeps (c := [.slot, .latched, .lastTag]) fun q hq => by
        cases q <;> first | rfl | exact absurd (by decide) hq
    refine Aligned.of_keeps (c := [.ownCU]) ?_ (KeepsAllBut.refl _).issueCU
    generalize s.setCommand { s.command with
      slot := .answering, latched := s.command.shadow, lastTag := some (postTag v) } = u at h1
    generalize hx : postOutcome u (postCode v) u.command.latched = x
    cases x with
    | done =>
      obtain ⟨c, hc, h2, h3, h4⟩ := of_postOutcome_done hx
      unfold postEffects
      rw [hc]
      exact h1.execute h2 h3 h4
    | _ => exact h1
  · exact h.request _ _ _ _

/-! ### Words (R87 to R92) -/

theorem snoop (h : Aligned s) (off : Nat) (v : Word) : Aligned (snoop off v s) := by
  unfold Machine.snoop
  split
  · exact h.cuPost v
  · split
    · exact h.of_keeps (c := [.shadow]) fun q hq => by cases q <;> first | rfl | exact absurd (by decide) hq
    · split
      · exact h.cuFrameMark v
      · split
        · unfold rwTail
          dsimp only
          split
          · exact h.of_keeps (c := [.tail]) fun q hq => by cases q <;> first | rfl | exact absurd (by decide) hq
          · exact h
        · split
          · exact h.of_keeps (keeps_ssPermitRequest s v)
          · split
            · exact h.plPlanWrite off
            · exact h

theorem planAreaWrite (h : Aligned s) (off : Nat) (v : Word) (w : UpWord) : Aligned (planAreaWrite off v w s).1 := by
  unfold Machine.planAreaWrite
  split
  · exact h.request _ _ _ _
  · split
    · unfold ssImageWord
      split
      · exact h.of_keeps (keeps_ssProgramRequest s _ v w)
      all_goals exact h.request _ _ _ _
    · split
      · exact h.snoop off v
      · exact h

theorem teRead (h : Aligned s) (p : Plan) (z : Fin 48) (j : Nat) : Aligned (teRead p z j s).1 := by
  unfold Machine.teRead
  dsimp only
  split
  · exact h
  · split
    · exact h
    · exact h
    · exact h
    · split
      · unfold teSteadyRead
        dsimp only
        split
        · exact h
        · dsimp only
          exact h.teBoundFailure _ _ _ _
        · dsimp only
          exact h.teBoundFailure _ _ _ _
      · unfold teGlidingRead
        dsimp only
        split
        · exact h
        · exact (h.teBoundFailure _ _ _ _).teBoundFailure _ _ _ _

theorem ownerTreatment (h : Aligned s) (w : UpWord) : Aligned (ownerTreatment w s).1 := by
  unfold Machine.ownerTreatment withPlan
  split
  · unfold planAreaWord
    split
    · exact h
    · exact h.planAreaWrite _ _ _
  · split
    · exact h
    · unfold teWord
      split
      · exact h.teRead _ _ _
      · exact h.request _ _ _ _
  · split
    · exact h
    · unfold zcWord
      split
      · exact h
      · exact h
      · exact h
      · exact h
      · exact h.of_keeps (c := [.guards]) (KeepsAllBut.refl s).setGuard
      all_goals exact h.request _ _ _ _
  · split
    · exact h
    · unfold ltWord
      split
      · exact h
      · dsimp only
        split
        · exact h.of_keeps (c := .lines :: reportParts) (KeepsAllBut.refl s).ltWriterWrite
        · exact h.of_keeps (c := .lines :: reportParts) (KeepsAllBut.refl s).ltForeignWrite
  · exact h

/-- MP's own record of the word in hand and of what waits is no one's concern. -/
theorem setPath (h : Aligned s) {p : MemPath} (hp : p.straps = s.path.straps) : Aligned (s.setPath p) := by
  obtain ⟨⟨a, b, c, d⟩, he, hc, hd⟩ := h
  refine ⟨⟨a, ?_, ?_, d⟩, he, hc, hd⟩
  · show ∀ q, s.loader.live = some q → planResult p.straps none q = .pass
    rw [hp]
    exact b
  · show ∀ q, s.loader.standby = some q → ∃ r, s.loader.live = some r ∧ planResult p.straps (some r) q = .pass
    rw [hp]
    exact c

theorem finishWord (h : Aligned s) (w : UpWord) (l : List (Fin 4)) (x : Option Word) : Aligned (finishWord w l x s) :=
  (h.setPath (p := { s.path with inHand := none, lastDone := some ⟨w, x⟩ }) rfl).of_keeps (keeps_awDataAll l x _)

theorem startTreatment (h : Aligned s) (w : UpWord) (l : List (Fin 4)) (x : Treatment) :
    Aligned (startTreatment w l x s) := by
  cases x with
  | access accesses form => exact h.setPath rfl
  | complete answer => exact h.finishWord w l answer

theorem takeWord (h : Aligned s) (w : UpWord) : Aligned (takeWord w s) := by
  unfold Machine.takeWord
  split
  · exact h.startTreatment _ _ _
  · dsimp only
    have h1 : Aligned (awLook w s) := h.of_keeps (keeps_awLook s w)
    split
    · exact h1.finishWord _ _ _
    · exact (h1.ownerTreatment w).startTreatment _ _ _

/-! ### Events (R88) -/

/-- R124: start-up ends in COLD, with no plan live. -/
theorem cuEndStartUp (h : Aligned s) : Aligned (cuEndStartUp s) := by
  unfold Machine.cuEndStartUp
  split
  · rename_i hs
    refine Aligned.statusChange (Aligned.request ?_ _ _ _ _) _
    have hn : ¬ s.loader.live.isSome = true := fun hl => by
      rcases h.plans.device.1 hl with hd | hd <;> simp [hs.1] at hd
    obtain ⟨⟨_, b, c, d⟩, he, hc, hd⟩ := h
    refine ⟨⟨⟨fun hl => absurd hl hn, fun hd => ?_⟩, b, c, d⟩, he, hc, hd⟩
    rcases hd with hd | hd <;> cases hd
  · exact h

theorem ssIssueImage (h : Aligned s) : Aligned (ssIssueImage s) := by
  unfold Machine.ssIssueImage
  split
  · exact h.of_keeps (c := [.ownSS]) (KeepsAllBut.refl s).issueSS
  · exact h

theorem setStore (h : Aligned s) (x : SafetyStore) : Aligned (s.setStore x) := h.of_keeps (keeps_setStore s x)

theorem ownWriteDone (h : Aligned s) (x : OwnAccess) : Aligned (ownWriteDone x s) := by
  cases x with
  | planRead _ => exact h
  | detailWrite _ _ => exact h
  | answerWrite _ =>
    exact h.of_keeps (c := [.slot]) fun q hq => by cases q <;> first | rfl | exact absurd (by decide) hq
  | entryWrite _ _ _ => exact h
  | headWrite i =>
    have h1 : Aligned (s.setWriter { s.writer with head := i, queue := s.writer.queue.tail, work := .free }) :=
      h.of_keeps (c := [.head, .queue, .work]) fun q hq => by cases q <;> first | rfl | exact absurd (by decide) hq
    exact h1.of_keeps (keeps_statusFirst _)
  | statusWrite _ _ =>
    have h1 : Aligned (s.setWriter { s.writer with work := .free }) :=
      h.of_keeps (c := [.work]) fun q hq => by cases q <;> first | rfl | exact absurd (by decide) hq
    exact (h1.of_keeps (keeps_chooseWork _)).cuEndStartUp
  | imageWrite i _ => exact ((h.setStore _).ssIssueImage).cuEndStartUp

theorem takeEvent (h : Aligned s) (e : SlowEvent) : Aligned (takeEvent e s) := by
  cases e with
  | startUpCheck =>
    show Aligned (ssStartUpCheck s)
    unfold ssStartUpCheck
    split
    · exact ((h.setStore _).statusChange 20).ssIssueImage
    · exact h
  | endOfChecks => exact h.plEndOfChecks
  | entryProgrammed =>
    show Aligned (ssEntryCompletion s)
    unfold ssEntryCompletion
    split
    · exact h
    · split
      · exact h.of_keeps (keeps_ssEntryProgrammed s _ _)
      · exact h
  | checksumProgrammed =>
    show Aligned (ssChecksumCompletion s)
    unfold ssChecksumCompletion
    split
    · exact h
    · split
      · exact h
      · exact h.of_keeps (keeps_ssChecksumProgrammed s _ _)
  | yieldEdge b => exact h.of_keeps (c := .yieldLevel :: zoneParts) (KeepsAllBut.refl s).zcEdge
  | planWordRead v => exact h.plReadDone v
  | ownWritten x => exact h.ownWriteDone x

/-! ### What waits for the end of a word, and the port -/

theorem presentWord (h : Aligned s) (w : UpWord) : Aligned (presentWord w s) := by
  unfold Machine.presentWord
  split
  · exact h
  · split
    · exact h.setPath rfl
    · exact h.takeWord w

theorem deliver (h : Aligned s) (e : SlowEvent) : Aligned (deliver e s) := by
  unfold Machine.deliver
  split
  · exact h.setPath rfl
  · exact h.takeEvent e

theorem arrive (h : Aligned s) (e : SlowEvent) : Aligned (arrive e s) := by
  unfold Machine.arrive
  split
  · exact h
  · exact h.deliver e

theorem takeHeld (h : Aligned s) (l : List SlowEvent) : Aligned (takeHeld l s) := by
  induction l generalizing s with
  | nil => exact h
  | cons e l ih => exact ih ((h.setPath (p := { s.path with held := l }) rfl).takeEvent e)

theorem takeWaiting (h : Aligned s) (l : List UpWord) : Aligned (takeWaiting l s) := by
  induction l generalizing s with
  | nil => exact h.setPath rfl
  | cons w l ih =>
    have h1 : Aligned (Machine.takeWord w (s.setPath { s.path with waiting := l })) :=
      (h.setPath (p := { s.path with waiting := l }) rfl).takeWord w
    unfold Machine.takeWaiting
    dsimp only
    split
    · exact h1
    · exact ih h1

theorem upstreamComplete (h : Aligned s) : Aligned (upstreamComplete s) := by
  unfold Machine.upstreamComplete
  split
  · rename_i a _
    have h1 : Aligned (upstreamMemory a (freePort s)) := by
      have h0 : Aligned (freePort s) := h.setPath rfl
      cases a with
      | read _ => exact h0
      | write _ _ => exact h0.of_keeps (c := [.mem]) (KeepsAllBut.refl _).memWrite
    unfold upstreamDone
    dsimp only
    split
    · exact h1
    · split
      · unfold completeInHand afterWord
        have counted (z : Option (Fin 48)) : Aligned (countSaturation z (upstreamMemory a (freePort s))) := by
          cases z with
          | none => exact h1
          | some z => exact h1.setTap z rfl rfl
        exact Aligned.takeWaiting (Aligned.takeHeld ((counted _).finishWord _ _ _) _) _
      · exact h1.setPath rfl
  · exact h
  · exact h

theorem ownMemory (h : Aligned s) (x : OwnAccess) : Aligned (ownMemory x s) := by
  unfold Machine.ownMemory
  split
  · exact h
  · exact h.of_keeps (c := [.mem]) (KeepsAllBut.refl _).memWrite

theorem ownComplete (h : Aligned s) (row : OwnCompletion) : Aligned (ownComplete row s) := by
  unfold Machine.ownComplete
  split
  · rename_i x _
    split
    · have h1 : Aligned (freePort (Machine.ownMemory x s)) := (h.ownMemory x).setPath rfl
      exact h1.deliver _
    · exact h
  · exact h
  · exact h

theorem portGrant (h : Aligned s) : Aligned (portGrant s) := by
  unfold Machine.portGrant
  split
  · exact h
  · split
    · exact h
    · unfold grantUpstream
      split
      · exact h.setPath rfl
      · split <;> exact h.setPath rfl
    · unfold grantOwn
      split
      · exact h.setPath rfl
      · unfold serve
        split
        · exact h.setPath rfl
        · have served (n : Nat) (c : Client) (l : List OwnAccess) (k : Client) :
              Aligned ((s.setPath { s.path with count := n }).setPath
                { ({ s.path with count := n } : MemPath).setIssued c l with pointer := k }) :=
            Aligned.setPath (h.setPath rfl) (by simp)
          dsimp only
          split
          · exact (served _ _ _ _).setPath rfl
          · exact (served _ _ _ _).ownMemory _

/-! ### Resets -/

theorem endReset (h : Aligned s) (hr : InReset s) (straps : BitVec 6) (y : Bool) : Aligned (endReset straps y s) := by
  unfold Machine.endReset
  split
  · rename_i hh
    obtain ⟨_, hd, hi⟩ := hr hh
    refine Aligned.of_keeps (c := statusParts) ?_ (keeps_chooseWork _)
    have hl : s.loader.live = none := by
      rw [← Option.not_isSome_iff_eq_none, h.plans.device, hd]
      simp
    have hs := h.standby_none hl
    obtain ⟨⟨a, b, c, d⟩, he, hc, hdl⟩ := h
    refine ⟨⟨a, fun p hp => ?_, fun q hq => ?_, d⟩, he, hc, hdl⟩
    · exact absurd (hl.symm.trans hp) (by simp)
    · exact absurd (hs.symm.trans hq) (by simp)
  · exact h

end Aligned

theorem aligned_takeReset (cause : ResetCause) (s : State) : Aligned (takeReset cause s) := by
  have fresh (a : Fin 8) : (takeReset cause s).area a = AreaRec.fresh := by
    simp [State.area, takeReset, State.reset]
  refine ⟨⟨?_, fun p hp => (by cases hp), fun q hq => (by cases hq), ?_⟩, fun a => ?_, fun a => ?_,
    fun p hp => (by cases hp)⟩
  · exact ⟨fun h => (by cases h), fun h => (by rcases h with h | h <;> cases h)⟩
  · exact ⟨fun h => (by cases h), fun h => (by cases h)⟩
  · rw [fresh]
    exact sourceOk_fresh _ a
  · rw [fresh]
    exact collectsNothing_fresh

/-! ### A reset that lasts -/

section
variable {s : State}

/-- While a reset lasts a grant finds no one waiting. -/
theorem portGrant_inReset (h : s.path = MemPath.reset s.path.straps) : portGrant s = s := by
  unfold portGrant
  rw [h]
  rfl

theorem upstreamComplete_inReset (h : s.path = MemPath.reset s.path.straps) : upstreamComplete s = s := by
  unfold upstreamComplete
  rw [h]
  rfl

theorem ownComplete_inReset (row : OwnCompletion) (h : s.path = MemPath.reset s.path.straps) :
    ownComplete row s = s := by
  unfold ownComplete
  rw [h]
  rfl

/-- Work that leaves a reset's sign alone, where no reset lasts. -/
theorem inReset_of_keeps {t : State} (hn : ¬ s.path.resetHeld = true) (k : KeepsAllBut runParts s t) : InReset t :=
  fun ht => absurd ((k .resetHeld (by decide)).symm.trans ht) hn

theorem inReset_takeReset (cause : ResetCause) (s : State) : InReset (takeReset cause s) :=
  fun _ => ⟨rfl, rfl, rfl⟩

theorem inReset_endReset (straps : BitVec 6) (y : Bool) (h : InReset s) : InReset (endReset straps y s) := by
  unfold endReset
  split
  · intro ht
    have k := keeps_chooseWork (({ s with yieldLevel := y }.setPath
      { s.path with straps := straps, resetHeld := false }).setStore { s.store with checkPending := true }) .resetHeld
        (by decide)
    exact absurd (k.symm.trans ht) (by simp)
  · exact h

end

/-- Every command keeps the alignment invariant. -/
theorem alignmentOk_exec (c : Instr) (s t : State) (h : AlignmentOk s) (he : exec c s = .next t) : AlignmentOk t := by
  rw [alignmentOk_iff] at h
  obtain ⟨ha, hr⟩ := h
  have both {u : State} (h1 : Aligned u) (h2 : InReset u) : AlignmentOk u := (alignmentOk_iff u).2 ⟨h1, h2⟩
  have word := (KeepsAllBut.refl (c := runParts) s)
  by_cases hh : s.path.resetHeld = true
  · obtain ⟨hp, _, _⟩ := hr hh
    refine exec_keeps (P := AlignmentOk) he (fun cause => both (aligned_takeReset cause s) (inReset_takeReset cause s))
      (fun straps y => both (ha.endReset hr straps y) (inReset_endReset straps y hr)) (fun w => ?_) (fun e _ => ?_) ?_ ?_
      (fun row => ?_)
    · rw [presentWord, if_pos hh]
      exact both ha hr
    · rw [arrive, if_pos hh]
      exact both ha hr
    · rw [portGrant_inReset hp]
      exact both ha hr
    · rw [upstreamComplete_inReset hp]
      exact both ha hr
    · rw [ownComplete_inReset row hp]
      exact both ha hr
  · exact exec_keeps (P := AlignmentOk) he
      (fun cause => both (aligned_takeReset cause s) (inReset_takeReset cause s))
      (fun straps y => both (ha.endReset hr straps y) (inReset_endReset straps y hr))
      (fun w => both (ha.presentWord w) (inReset_of_keeps hh (word.run ((KeepsAllBut.refl s).presentWord w))))
      (fun e _ => both (ha.arrive e) (inReset_of_keeps hh (word.run ((KeepsAllBut.refl s).arrive e))))
      (both ha.portGrant (inReset_of_keeps hh word.portGrant))
      (both ha.upstreamComplete (inReset_of_keeps hh word.upstreamComplete))
      (fun row => both (ha.ownComplete row) (inReset_of_keeps hh (word.ownComplete row)))

/-- Settles O59: every command keeps the invariant (`alignmentOk_exec`), so every step does. -/
theorem alignmentStaysSound : Obligations.AlignmentStaysSound := by
  unfold Obligations.AlignmentStaysSound
  intro s t h hs
  exact step_keeps (P := AlignmentOk) (fun _ _ h => h) alignmentOk_exec h hs

end Sys2Proof.Machine
end

section
/-!
PROOFS. Writer writes to a line that is not IDLE (chapter 1): accepted in order, with or without a jump (O2), and the
resync out of order (O3).
-/
namespace Sys2Proof.Machine

-- one theorem after another, as in the tests: side by side they take more threads than the memory limit allows
set_option Elab.async false

/-- R4: past IDLE a writer write is sorted by the offset the head expects. -/
theorem ltWriterWrite_active {l : Fin 24} {s : State} (p : Plan) (o : Nat) (v : Word) (hc : (s.line l).cond ≠ .idle) :
    ltWriterWrite p l o v s =
      if o = (s.line l).head.toNat % p.lineLen l.val then
        ltAccept p l (legalSample v) ((s.line l).taken (legalSample v)) s
      else ltResync l o ((s.line l).head.toNat % p.lineLen l.val) ((s.line l).taken (legalSample v)) s := by
  have ht : ((s.line l).taken (legalSample v)).cond = (s.line l).cond := rfl
  unfold ltWriterWrite
  dsimp only
  rw [ht]
  cases h : (s.line l).cond
  case idle => exact absurd h hc
  all_goals rfl

/-! ### An accepted write (R6, R7) -/

/-- The record of an accepted write that makes no jump. -/
def LineRec.accepted (r : LineRec) (x : Int) : LineRec := { r.taken x with head := r.head + 1, prev := some x }

theorem jumpOf_none {r : LineRec} {n : Nat} {x : Int} (h : ∀ y, r.prev = some y → n ≠ 0 → (x - y).natAbs ≤ n) :
    jumpOf r n x = none := by
  unfold jumpOf
  cases hp : r.prev with
  | none => rfl
  | some y =>
    dsimp only
    rw [if_neg]
    rintro ⟨h0, hlt⟩
    have := h y hp h0
    omega

theorem jumpOf_some {r : LineRec} {n : Nat} {x y : Int} (hp : r.prev = some y) (h0 : n ≠ 0) (h : n < (x - y).natAbs) :
    jumpOf r n x = some (x - y).natAbs := by
  unfold jumpOf
  rw [hp]
  exact if_pos ⟨h0, h⟩

theorem ltAccept_smooth {p : Plan} {l : Fin 24} {x : Int} {r : LineRec} (s : State)
    (h : jumpOf r (p.jumpThreshold l.val) x = none) :
    ltAccept p l x (r.taken x) s = s.setLine l (r.accepted x) := by
  have h' : jumpOf (r.taken x) (p.jumpThreshold l.val) x = none := h
  unfold ltAccept
  dsimp only
  rw [h']
  rfl

theorem ltAccept_jump {p : Plan} {l : Fin 24} {x : Int} {r : LineRec} {n : Nat} (s : State)
    (h : jumpOf r (p.jumpThreshold l.val) x = some n) :
    ltAccept p l x (r.taken x) s = ltJump l r.head n (r.accepted x) s := by
  have h' : jumpOf (r.taken x) (p.jumpThreshold l.val) x = some n := h
  unfold ltAccept
  dsimp only
  rw [h']
  rfl

/-- R7: a jump on a line that is FAULTED already only renews its record. -/
theorem ltJump_faulted {l : Fin 24} {r : LineRec} (pos : Word) (n : Nat) (s : State) (h : r.cond = .faulted) :
    ltJump l pos n r s = s.setLine l { r with jumpSeen := true, quiet := 0, cond := .faulted } := by
  unfold ltJump
  rw [h]

/-- R7: a jump makes another line FAULTED, reports it and marks its word. -/
theorem ltJump_fresh {l : Fin 24} {r : LineRec} (pos : Word) (n : Nat) (s : State) (h : r.cond ≠ .faulted) :
    ltJump l pos n r s = ((s.setLine l { r with jumpSeen := true, quiet := 0, cond := .faulted }).request .lineFault l.val
      pos (word n)).statusChange (lineOffset l) := by
  unfold ltJump
  cases hc : r.cond
  case faulted => exact absurd hc h
  all_goals rfl

theorem line_ltJump (l k : Fin 24) (pos : Word) (n : Nat) (r : LineRec) (s : State) : (ltJump l pos n r s).line k =
    if k = l then { r with jumpSeen := true, quiet := 0, cond := .faulted } else s.line k := by
  by_cases h : r.cond = .faulted
  · rw [ltJump_faulted pos n s h, line_setLine]
  · rw [ltJump_fresh pos n s h, line_statusChange, line_request, line_setLine]

/-- What the making of a jump does for RW. -/
theorem reported_ltJump {l : Fin 24} {r : LineRec} (pos : Word) (n : Nat) (s : State) (h : r.cond ≠ .faulted) :
    Reported s (ltJump l pos n r s) .lineFault l.val pos (word n) ∧ Marked (ltJump l pos n r s) (30 + l.val) := by
  rw [ltJump_fresh pos n s h]
  exact ⟨Reported.statusChange (reported_request _ _ _ _ _ _ rfl rfl) _, marked_statusChange _ _⟩

theorem Reported.startTreatment_altered {s t : State} {k : ReportKind} {n : Nat} {a b : Word}
    (h : Reported s t k n a b) (w : UpWord) (u : List (Fin 4)) (x : Word) :
    Reported s (startTreatment w u (alteredTreatment w x) t) k n a b := h.record

/-- Settles O2: by whether the sample makes a jump, and whether the line is FAULTED already. -/
theorem acceptedWriteInOrder : Obligations.AcceptedWriteInOrder := by
  intro s p l o m a v ht hl hr hw hc ho x kept
  have hline (k : Fin 24) : (s.looked ⟨m, a, .write v⟩).line k = s.line k := by simp
  refine ⟨_, exec_writerWrite m a v s, ?_⟩
  rw [present_writerWrite ht hl hr hw, ltWriterWrite_active p o v (by rw [hline]; exact hc), hline, if_pos ho]
  refine ⟨?others, fun hn => ?smooth, fun y hy h0 hlt => ?jump⟩
  case others =>
    intro k hk
    rw [line_startTreatment_altered]
    cases hj : jumpOf (s.line l) (p.jumpThreshold l.val) (legalSample v) with
    | none => rw [ltAccept_smooth _ hj, line_setLine_ne _ _ _ _ hk, hline]
    | some n => rw [ltAccept_jump _ hj, line_ltJump, if_neg hk, hline]
  case smooth =>
    rw [ltAccept_smooth _ (jumpOf_none hn)]
    refine ⟨?_, stores_of _ _ _ _ _ _ _ (KeepsAllBut.refl _).setLine⟩
    rw [line_startTreatment_altered, line_setLine_self]
    rfl
  case jump =>
    rw [ltAccept_jump _ (jumpOf_some hy h0 hlt)]
    refine ⟨?record, fun hf => ?faulted, fun hf => ⟨?report, ?mark, ?stored⟩⟩
    case record =>
      rw [line_startTreatment_altered, line_ltJump, if_pos rfl]
      rfl
    case faulted =>
      rw [ltJump_faulted (r := (s.line l).accepted x) _ _ _ hf]
      exact stores_of _ _ _ _ _ _ _ (KeepsAllBut.refl _).setLine
    case report => exact (reported_ltJump (r := (s.line l).accepted x) _ _ _ hf).1.startTreatment_altered ..
    case mark => exact (reported_ltJump (r := (s.line l).accepted x) _ _ _ hf).2.startTreatment_altered ..
    case stored =>
      rw [ltJump_fresh (r := (s.line l).accepted x) _ _ _ hf]
      exact stores_of _ _ _ _ _ _ _ (KeepsAllBut.refl _).setLine.request.statusChange

/-! ### A resync (R8) -/

theorem line_ltResync (l k : Fin 24) (o e : Nat) (r : LineRec) (s : State) : (ltResync l o e r s).line k =
    if k = l then r.resynced o else s.line k := by
  unfold ltResync
  dsimp only
  split <;> split <;> simp [line_setLine]

theorem marked_ltResync {l : Fin 24} {r : LineRec} (o e : Nat) (s : State) (h : r.cond = .running) :
    Marked (ltResync l o e r s) (30 + l.val) := by
  unfold ltResync
  dsimp only
  rw [if_pos h]
  exact marked_statusChange _ _

theorem reported_ltResync {l : Fin 24} {r : LineRec} (o e : Nat) (s : State) (h : r.resyncReported = false) :
    Reported s (ltResync l o e r s) .lineResync l.val (word o) (word e) := by
  unfold ltResync
  simp only [h, Bool.false_eq_true, if_false]
  split
  · exact Reported.statusChange (reported_request _ _ _ _ _ _ rfl rfl) _
  · exact reported_request _ _ _ _ _ _ rfl rfl

/-- What a resync touches: its record, its report if it is the frame's first, and its status word if the line ran. -/
theorem keeps_ltResync (l : Fin 24) (o e : Nat) (r : LineRec) (s : State) :
    KeepsAllBut (if r.resyncReported then (if r.cond = .running then .lines :: statusParts else [.lines])
      else .lines :: reportParts) s (ltResync l o e r s) := by
  unfold ltResync
  dsimp only
  cases r.resyncReported
  · simp only [Bool.false_eq_true, if_false]
    split
    · exact (KeepsAllBut.refl s).setLine.request.statusChange
    · exact (KeepsAllBut.refl s).setLine.request
  · simp only [if_true]
    split
    · exact (KeepsAllBut.refl s).setLine.statusChange
    · exact (KeepsAllBut.refl s).setLine

/-- Settles O3: the write is out of order, so it is a resync (`ltResync`). -/
theorem resyncOutOfOrder : Obligations.ResyncOutOfOrder := by
  intro s p l o m a v ht hl hr hw hc ho
  have hline (k : Fin 24) : (s.looked ⟨m, a, .write v⟩).line k = s.line k := by simp
  refine ⟨_, exec_writerWrite m a v s, ?_⟩
  rw [present_writerWrite ht hl hr hw, ltWriterWrite_active p o v (by rw [hline]; exact hc), hline, if_neg ho]
  refine ⟨?record, fun k hk => ?others, fun hrun => ?mark, fun hf => ?report, ?stored⟩
  case record =>
    rw [line_startTreatment_altered, line_ltResync, if_pos rfl]
    rfl
  case others => rw [line_startTreatment_altered, line_ltResync, if_neg hk, hline]
  case mark =>
    refine Marked.startTreatment_altered (marked_ltResync _ _ _ ?_) _ _ _
    exact hrun
  case report =>
    refine Reported.startTreatment_altered (reported_ltResync _ _ _ ?_) _ _ _
    exact hf
  case stored =>
    refine stores_of _ _ _ _ _ _ _ ((keeps_ltResync _ _ _ _ _).mono fun q hq => ?_)
    exact List.mem_cons_of_mem _ hq

end Sys2Proof.Machine
end

section
/-!
PROOFS. Words of the tap aperture (chapter 3): void reads (O8, O10), reads in bounds (O9), loop-around reads (O11) and
dropped writes (O12).
-/
namespace Sys2Proof.Machine

-- one theorem after another, as in the tests: side by side they take more threads than the memory limit allows
set_option Elab.async false

theorem exec_tapRead (m : Master) (a : Addr) (s : State) : exec (.tapRead m a) s = .next (presentWord ⟨m, a, .read⟩ s) :=
  rfl

theorem exec_apertureWrite (m : Master) (a : Addr) (v : Word) (s : State) :
    exec (.apertureWrite m a v) s = .next (presentWord ⟨m, a, .write v⟩ s) := rfl

theorem present_tapRead {s : State} {p : Plan} {z : Fin 48} {j : Nat} {m : Master} {a : Addr}
    (h : s.takes ⟨m, a, .read⟩) (hl : s.loader.live = some p) (hr : s.region a = .aperture z j) :
    presentWord ⟨m, a, .read⟩ s = startTreatment ⟨m, a, .read⟩ (watchersOf s ⟨m, a, .read⟩)
      (teRead p z j (s.looked ⟨m, a, .read⟩)).2 (teRead p z j (s.looked ⟨m, a, .read⟩)).1 :=
  present_tap h hl hr

/-! ### The steps of a tap read (R40) -/

theorem teRead_proof {s : State} {z : Fin 48} (p : Plan) (j : Nat) (h : (s.guard z).proof = true) :
    teRead p z j s = (s, .access [.read (loopAroundAddr p z (s.guard z).lastHalf.val j)] .plain) :=
  if_pos h

theorem teRead_unusable {s : State} {p : Plan} {z : Fin 48} {l : Fin 24} (j : Nat) (hl : l.val = p.programLine z.val)
    (hp : (s.guard z).proof = false) (hc : (s.line l).cond ≠ .running) :
    teRead p z j s = (s, .complete (some voidCode)) := by
  unfold teRead
  dsimp only
  rw [if_neg (by simp [hp]), lineNo_val hl]
  cases h : (s.line l).cond
  case running => exact absurd h hc
  all_goals rfl

theorem teRead_steady {s : State} {p : Plan} {z : Fin 48} {l : Fin 24} {d : Nat} (j : Nat)
    (hl : l.val = p.programLine z.val) (hp : (s.guard z).proof = false) (hc : (s.line l).cond = .running)
    (hg : (s.tap z).glide = .steady d) : teRead p z j s = teSteadyRead p z j l d s := by
  unfold teRead
  dsimp only
  rw [if_neg (by simp [hp]), lineNo_val hl, hc, hg]

theorem teRead_gliding {s : State} {p : Plan} {z : Fin 48} {l : Fin 24} {a b k g : Nat} (j : Nat)
    (hl : l.val = p.programLine z.val) (hp : (s.guard z).proof = false) (hc : (s.line l).cond = .running)
    (hg : (s.tap z).glide = .gliding a b k g) : teRead p z j s = teGlidingRead p z j l a b k g s := by
  unfold teRead
  dsimp only
  rw [if_neg (by simp [hp]), lineNo_val hl, hc, hg]

/-! ### Positions and bounds (R43, R45) -/

/-- How far a line's head stands from the position of word j at a delay (R43, R45). -/
def LineRec.ahead (r : LineRec) (p : Plan) (j d : Nat) : Word := r.head - tapPosition r.anchor p.frameLen d j

theorem classify_good {x : Int} {n : Nat} : classify x n = .good ↔ 1 ≤ x ∧ x ≤ n := by
  unfold classify
  split
  case isTrue h => simp; omega
  case isFalse h => split <;> simp <;> omega

theorem classify_early {x : Int} {n : Nat} (h : x < 1) : classify x n = .early := if_pos h

theorem classify_late {x : Int} {n : Nat} (h : ¬ x < 1) (h' : (n : Int) < x) : classify x n = .late :=
  (if_neg h).trans (if_pos h')

/-- R46: TE's failures of a list of delays, each by the bound its position has. -/
def teBoundFailures (z : Fin 48) (length : Nat) (ahead : Nat → Word) (delays : List Nat) (s : State) : State :=
  forEach delays (fun d => teBoundFailure z d (ahead d).toInt (classify (ahead d).toInt length)) s

theorem teSteadyRead_good {s : State} {p : Plan} {z : Fin 48} {j : Nat} {l : Fin 24} {d : Nat}
    (h : classify ((s.line l).ahead p j d).toInt (p.lineLen l.val) = .good) :
    teSteadyRead p z j l d s =
      (s, .access [.read (sampleAddr (p.lineBase l.val) (p.lineLen l.val) (tapPosition (s.line l).anchor p.frameLen d j))]
        (.steady z (s.tap z).trim)) := by
  unfold teSteadyRead
  dsimp only [tapDistance]
  unfold LineRec.ahead at h
  rw [h]

theorem teSteadyRead_bad {s : State} {p : Plan} {z : Fin 48} {j : Nat} {l : Fin 24} {d : Nat}
    (h : classify ((s.line l).ahead p j d).toInt (p.lineLen l.val) ≠ .good) :
    teSteadyRead p z j l d s =
      (teBoundFailures z (p.lineLen l.val) ((s.line l).ahead p j) [d] s, .complete (some voidCode)) := by
  unfold teSteadyRead teBoundFailures
  rw [forEach_cons, forEach_nil]
  dsimp only [tapDistance]
  unfold LineRec.ahead at h ⊢
  cases hb : classify ((s.line l).head - tapPosition (s.line l).anchor p.frameLen d j).toInt (p.lineLen l.val)
  case good => exact absurd hb h
  all_goals rfl

theorem teGlidingRead_good {s : State} {p : Plan} {z : Fin 48} {j : Nat} {l : Fin 24} {a b k g : Nat}
    (h : ∀ d ∈ [a, b], classify ((s.line l).ahead p j d).toInt (p.lineLen l.val) = .good) :
    teGlidingRead p z j l a b k g s =
      (s, .access [.read (sampleAddr (p.lineBase l.val) (p.lineLen l.val) (tapPosition (s.line l).anchor p.frameLen a j)),
          .read (sampleAddr (p.lineBase l.val) (p.lineLen l.val) (tapPosition (s.line l).anchor p.frameLen b j))]
        (.blend z (blendWeight p.frameLen g k j) (s.tap z).trim)) :=
  if_pos ⟨h a (by simp), h b (by simp)⟩

theorem teGlidingRead_bad {s : State} {p : Plan} {z : Fin 48} {j : Nat} {l : Fin 24} {a b k g : Nat}
    (h : ¬ ∀ d ∈ [a, b], classify ((s.line l).ahead p j d).toInt (p.lineLen l.val) = .good) :
    teGlidingRead p z j l a b k g s =
      (teBoundFailures z (p.lineLen l.val) ((s.line l).ahead p j) [a, b] s, .complete (some voidCode)) :=
  if_neg fun hg => h (by simpa [LineRec.ahead, tapDistance] using hg)

/-! ### What the failures of a read do (R46) -/

theorem teBoundFailures_cons (z : Fin 48) (n : Nat) (ahead : Nat → Word) (d : Nat) (l : List Nat) (s : State) :
    teBoundFailures z n ahead (d :: l) s =
      teBoundFailures z n ahead l (teBoundFailure z d (ahead d).toInt (classify (ahead d).toInt n) s) := rfl

theorem tap_teBoundFailure (z k : Fin 48) (d : Nat) (x : Int) (b : Bound) (s : State) :
    (teBoundFailure z d x b s).tap k =
      if k = z then { s.tap z with
        earlyReported := (s.tap z).earlyReported || decide (b = .early)
        lateReported := (s.tap z).lateReported || decide (b = .late) }
      else s.tap k := by
  unfold teBoundFailure
  by_cases hk : k = z
  · subst hk
    cases b
    case good => simp
    case early =>
      cases h : (s.tap k).earlyReported
      case false => simp [h]
      case true =>
        simp only [h, if_true, Bool.true_or, reduceCtorEq, decide_false, Bool.or_false]
        exact congrArg (fun b => { s.tap k with earlyReported := b }) h
    case late =>
      cases h : (s.tap k).lateReported
      case false => simp [h]
      case true =>
        simp only [h, if_true, Bool.true_or, reduceCtorEq, decide_false, Bool.or_false]
        exact congrArg (fun b => { s.tap k with lateReported := b }) h
  · rw [if_neg hk]
    cases b
    case good => rfl
    all_goals
      dsimp only
      split
      · rfl
      · rw [tap_request, tap_setTap_ne _ _ _ _ hk]

theorem tap_teBoundFailures_ne {z k : Fin 48} (hk : k ≠ z) (n : Nat) (ahead : Nat → Word) (l : List Nat) (s : State) :
    (teBoundFailures z n ahead l s).tap k = s.tap k := by
  induction l generalizing s with
  | nil => rfl
  | cons d l ih => rw [teBoundFailures_cons, ih, tap_teBoundFailure, if_neg hk]

theorem tap_teBoundFailures (z : Fin 48) (n : Nat) (ahead : Nat → Word) (l : List Nat) (s : State) :
    (teBoundFailures z n ahead l s).tap z = { s.tap z with
      earlyReported := (s.tap z).earlyReported || !(l.filter fun d => decide ((ahead d).toInt < 1)).isEmpty
      lateReported := (s.tap z).lateReported || !(l.filter fun d => decide ((n : Int) < (ahead d).toInt)).isEmpty } := by
  induction l generalizing s with
  | nil => simp [teBoundFailures]
  | cons d l ih =>
    rw [teBoundFailures_cons, ih, tap_teBoundFailure, if_pos rfl]
    by_cases he : (ahead d).toInt < 1
    · have hn : ¬ (n : Int) < (ahead d).toInt := by omega
      simp [classify_early he, he, hn]
    · by_cases hn : (n : Int) < (ahead d).toInt
      · simp [classify_late he hn, he, hn]
      · have hg : classify (ahead d).toInt n = .good := classify_good.2 (by omega)
        simp [hg, he, hn]

theorem teBoundFailures_asks {stamp : Word} {s : State} (z : Fin 48) (n : Nat) (ahead : Nat → Word) (l : List Nat)
    {t : State} {m : List Request} (h : AsksAt stamp s m t) :
    AsksAt stamp s (m ++ boundRequests z n ahead (t.tap z).earlyReported (t.tap z).lateReported l)
      (teBoundFailures z n ahead l t) := by
  induction l generalizing t m with
  | nil => simpa [boundRequests, teBoundFailures] using h
  | cons d l ih =>
    have step := ih (teBoundFailure_asks z d (ahead d).toInt (classify (ahead d).toInt n) h)
    rw [tap_teBoundFailure, if_pos rfl, List.append_assoc] at step
    have hx : ofSample (ahead d).toInt = ahead d := BitVec.ofInt_toInt
    rw [teBoundFailures_cons]
    by_cases he : (ahead d).toInt < 1
    · simpa [boundRequests, classify_early he, he, hx] using step
    · by_cases hn : (n : Int) < (ahead d).toInt
      · simpa [boundRequests, classify_late he hn, he, hn, hx] using step
      · have hg : classify (ahead d).toInt n = .good := classify_good.2 (by omega)
        simpa [boundRequests, hg, he, hn] using step

theorem keeps_teBoundFailures (z : Fin 48) (n : Nat) (ahead : Nat → Word) (l : List Nat) (s : State) :
    KeepsAllBut (.taps :: reportParts) s (teBoundFailures z n ahead l s) :=
  .forEach _ (fun _ _ h => h.teBoundFailure) (.refl s)

/-- What the end of a word touches. -/
theorem keeps_finishWord (w : UpWord) (l : List (Fin 4)) (x : Option Word) (s : State) :
    KeepsAllBut (.inHand :: .lastDone :: .watch :: statusParts) s (finishWord w l x s) :=
  ((KeepsAllBut.refl s).setDone (by decide)).trans ((keeps_awDataAll _ _ _).mono (by decide))

theorem AsksAt.finishWord {stamp : Word} {s t : State} {m : List Request} (h : AsksAt stamp s m t) (w : UpWord)
    (l : List (Fin 4)) (x : Option Word) : AsksAt stamp s m (finishWord w l x t) :=
  forEach_keeps _ _ (fun _ _ _ hu => (stable_asksAt stamp s m).statusChanges _ ((stable_asksAt stamp s m).record hu))
    ((stable_asksAt stamp s m).record h)

/-- R46: a read that asks for no report finds the kinds of its failures reported already. -/
theorem teBoundFailures_silent {z : Fin 48} {n : Nat} {ahead : Nat → Word} {l : List Nat} {s : State}
    (h : boundRequests z n ahead (s.tap z).earlyReported (s.tap z).lateReported l = []) :
    teBoundFailures z n ahead l s = s := by
  induction l with
  | nil => rfl
  | cons d l ih =>
    rw [teBoundFailures_cons]
    by_cases he : (ahead d).toInt < 1
    · cases hr : (s.tap z).earlyReported
      case false => simp [boundRequests, he, hr] at h
      case true =>
        simp only [boundRequests, he, hr, if_true, List.nil_append] at h
        simp only [classify_early he, teBoundFailure, hr, if_true]
        exact ih (by rw [hr]; exact h)
    · by_cases hn : (n : Int) < (ahead d).toInt
      · cases hr : (s.tap z).lateReported
        case false => simp [boundRequests, he, hn, hr] at h
        case true =>
          simp only [boundRequests, he, hn, hr, if_true, if_false, List.nil_append] at h
          simp only [classify_late he hn, teBoundFailure, hr, if_true]
          exact ih (by rw [hr]; exact h)
      · have hg : classify (ahead d).toInt n = .good := classify_good.2 (by omega)
        simp only [boundRequests, he, hn, if_false] at h
        simp only [hg, teBoundFailure]
        exact ih h

/-- A read voided for its bounds: its failures, then the void answer. -/
theorem present_outOfBounds {s : State} {p : Plan} {z : Fin 48} {j : Nat} {l : Fin 24} {m : Master} {a : Addr}
    {delays : List Nat} (ht : s.takes ⟨m, a, .read⟩) (hl : s.loader.live = some p) (hr : s.region a = .aperture z j)
    (hline : l.val = p.programLine z.val) (hp : (s.guard z).proof = false) (hc : (s.line l).cond = .running)
    (hg : (∃ d, (s.tap z).glide = .steady d ∧ delays = [d]) ∨
      (∃ da db k g, (s.tap z).glide = .gliding da db k g ∧ delays = [da, db]))
    (hbad : ¬ ∀ d ∈ delays, classify ((s.line l).ahead p j d).toInt (p.lineLen l.val) = .good) :
    presentWord ⟨m, a, .read⟩ s = startTreatment ⟨m, a, .read⟩ (watchersOf s ⟨m, a, .read⟩) (.complete (some voidCode))
      (teBoundFailures z (p.lineLen l.val) ((s.line l).ahead p j) delays (s.looked ⟨m, a, .read⟩)) := by
  have hl' : (s.looked ⟨m, a, .read⟩).line l = s.line l := by simp
  have hp' : ((s.looked ⟨m, a, .read⟩).guard z).proof = false := by simpa using hp
  have hc' : ((s.looked ⟨m, a, .read⟩).line l).cond = .running := by simpa using hc
  have hz' : (s.looked ⟨m, a, .read⟩).tap z = s.tap z := by simp
  rw [present_tapRead ht hl hr]
  obtain ⟨d, hd, rfl⟩ | ⟨da, db, k, g, hd, rfl⟩ := hg
  case inl =>
    rw [teRead_steady j hline hp' hc' (by rw [hz', hd]), teSteadyRead_bad (by rw [hl']; simpa using hbad), hl']
  case inr =>
    rw [teRead_gliding j hline hp' hc' (by rw [hz', hd]), teGlidingRead_bad (by rw [hl']; exact hbad), hl']

/-! ### The obligations -/

/-- Settles O8: the line's condition voids the read before any position is formed. -/
theorem tapReadOfUnusableLine : Obligations.TapReadOfUnusableLine := by
  intro s p z j l m a ht hl hr hline hp hc
  refine ⟨_, exec_tapRead m a s, ?_⟩
  rw [present_tapRead ht hl hr, teRead_unusable j hline (by simpa using hp) (by simpa using hc)]
  exact answered_of _ _ _ _ _ (.refl _)

/-- Settles O9: STEADY and GLIDING zones apart, each with its positions good. -/
theorem tapReadInBounds : Obligations.TapReadInBounds := by
  refine ⟨?steady, ?gliding⟩
  case steady =>
    intro s p z j l m a d ht hl hr hline hp hc hg position hlo hhi
    have hl' : (s.looked ⟨m, a, .read⟩).line l = s.line l := by simp
    have hz' : (s.looked ⟨m, a, .read⟩).tap z = s.tap z := by simp
    refine ⟨_, exec_tapRead m a s, ?_⟩
    rw [present_tapRead ht hl hr,
      teRead_steady j hline (by simpa using hp) (by simpa using hc) (by rw [hz', hg]),
      teSteadyRead_good (by rw [hl']; exact classify_good.2 ⟨hlo, hhi⟩), hl', hz']
    exact waitsFor_of _ _ _ _ _ _ (.refl _)
  case gliding =>
    intro s p z j l m a da db k g ht hl hr hline hp hc hg r position place hpos
    have hl' : (s.looked ⟨m, a, .read⟩).line l = s.line l := by simp
    have hz' : (s.looked ⟨m, a, .read⟩).tap z = s.tap z := by simp
    refine ⟨_, exec_tapRead m a s, ?_⟩
    rw [present_tapRead ht hl hr,
      teRead_gliding j hline (by simpa using hp) (by simpa using hc) (by rw [hz', hg]),
      teGlidingRead_good (by rw [hl']; exact fun d hd => classify_good.2 (hpos d hd)), hl', hz']
    exact waitsFor_of _ _ _ _ _ _ (.refl _)

/-- Settles O10: the failures of the read's delays in order (`teBoundFailures`), then the void answer. -/
theorem tapReadOutOfBounds : Obligations.TapReadOutOfBounds := by
  intro s p z j l m a delays ht hl hr hline hp hc hg r ahead early late asked hne
  have hbad : ¬ ∀ d ∈ delays, classify ((s.line l).ahead p j d).toInt (p.lineLen l.val) = .good := by
    intro hall
    refine hne ?_
    have he : early = [] := List.filter_eq_nil_iff.2 fun d hd => by
      have h : 1 ≤ (ahead d).toInt := (classify_good.1 (hall d hd)).1
      simp; omega
    have hla : late = [] := List.filter_eq_nil_iff.2 fun d hd => by
      have h : (ahead d).toInt ≤ p.lineLen l.val := (classify_good.1 (hall d hd)).2
      simp; omega
    rw [he, hla]; rfl
  have hz' (k : Fin 48) : (s.looked ⟨m, a, .read⟩).tap k = s.tap k := by simp
  have hasked : asked = boundRequests z (p.lineLen l.val) ((s.line l).ahead p j)
    ((s.looked ⟨m, a, .read⟩).tap z).earlyReported ((s.looked ⟨m, a, .read⟩).tap z).lateReported delays := by
    rw [hz']; rfl
  refine ⟨_, exec_tapRead m a s, ?_⟩
  rw [present_outOfBounds ht hl hr hline hp hc hg hbad]
  generalize hu : teBoundFailures z (p.lineLen l.val) ((s.line l).ahead p j) delays (s.looked ⟨m, a, .read⟩) = u
  have hans : Answered s (startTreatment ⟨m, a, .read⟩ (watchersOf s ⟨m, a, .read⟩) (.complete (some voidCode)) u)
      ⟨m, a, .read⟩ voidCode (if asked = [] then [] else .taps :: reportParts) := by
    by_cases hq : asked = []
    · rw [if_pos hq, ← hu, teBoundFailures_silent (hasked.symm.trans hq)]
      exact answered_of _ _ _ _ _ (.refl _)
    · rw [if_neg hq, ← hu]
      exact answered_of _ _ _ _ _ ((keeps_teBoundFailures _ _ _ _ _).mono (by decide))
  have hkeep (k : Fin 48) : (startTreatment ⟨m, a, .read⟩ (watchersOf s ⟨m, a, .read⟩) (.complete (some voidCode)) u).tap
      k = u.tap k := by
    exact tap_of_keeps (keeps_finishWord _ _ _ _) k (by decide)
  refine ⟨?own, fun k hk => ?others, ?asks, hans⟩
  case own =>
    rw [hkeep, ← hu, tap_teBoundFailures, hz']
    rfl
  case others => rw [hkeep, ← hu, tap_teBoundFailures_ne hk, hz']
  case asks =>
    have h := teBoundFailures_asks z (p.lineLen l.val) ((s.line l).ahead p j) delays
      (t := s.looked ⟨m, a, .read⟩) (m := []) (stamp := s.command.lastStamp) ⟨by simp, asks_refl _ _⟩
    rw [← hasked, hu, List.nil_append] at h
    exact (h.finishWord _ _ _).2

/-- Settles O11: the flag is looked at before the line (`teRead_proof`). -/
theorem tapReadLoopAround : Obligations.TapReadLoopAround := by
  intro s p z j m a ht hl hr hp
  have hg : (s.looked ⟨m, a, .read⟩).guard z = s.guard z := by simp
  refine ⟨_, exec_tapRead m a s, ?_⟩
  rw [present_tapRead ht hl hr, teRead_proof p j (by rw [hg, hp]), hg]
  exact waitsFor_of _ _ _ _ _ _ (.refl _)

/-- Settles O12: TE asks for the report and drops the word. -/
theorem apertureWriteDropped : Obligations.ApertureWriteDropped := by
  intro s p z j m a v ht hl hr
  have hpres : presentWord ⟨m, a, .write v⟩ s = startTreatment ⟨m, a, .write v⟩ [] droppedTreatment
      ((s.looked ⟨m, a, .write v⟩).foreignWrite z.val ⟨m, a, .write v⟩) := by
    rw [present_tap ht hl hr, watchersOf_write]
    rfl
  refine ⟨_, exec_apertureWrite m a v s, ?_⟩
  rw [hpres]
  refine ⟨?report, ?drop⟩
  case report => exact (reported_foreignWrite _ _ _).startTreatment_dropped _
  case drop => exact dropped_of _ _ _ _ _ _ (KeepsAllBut.refl _).foreignWrite

end Sys2Proof.Machine
end

section
/-!
PROOFS. Words of the zone buffers (chapter 4): clamped zone writes (O14) and output reads (O16); the safety entries and
their changes (O18).
-/
namespace Sys2Proof.Machine

-- one theorem after another, as in the tests: side by side they take more threads than the memory limit allows
set_option Elab.async false

theorem exec_zoneWrite (a : Addr) (v : Word) (s : State) :
    exec (.zoneWrite a v) s = .next (presentWord ⟨.core, a, .write v⟩ s) := rfl

theorem exec_outputRead (a : Addr) (s : State) :
    exec (.outputRead a) s = .next (presentWord ⟨.outDma, a, .read⟩ s) := rfl

/-! ### A zone write (R67) -/

theorem present_zoneWrite {s : State} {p : Plan} {z : Fin 48} {half : Fin 2} {j : Nat} {a : Addr} {v : Word}
    (h : s.takes ⟨.core, a, .write v⟩) (hl : s.loader.live = some p) (hr : s.region a = .zoneBuffer z half j) :
    presentWord ⟨.core, a, .write v⟩ s =
      startTreatment ⟨.core, a, .write v⟩ []
        (alteredTreatment ⟨.core, a, .write v⟩ (ofSample (zoneClamp (s.store.effective z).ceiling v)))
        ((s.looked ⟨.core, a, .write v⟩).setGuard z
          ((s.guard z).written p.frameLen half (zoneClamp (s.store.effective z).ceiling v ≠ sample v))) := by
  rw [present_zone h hl hr, watchersOf_write]
  simp only [zcWord, zcWrite, awLook_store, guard_awLook]

theorem written_eq (r : GuardRec) (n : Nat) (half : Fin 2) (x : Int) (v : Word) :
    r.written n half (x ≠ sample v) = { r with
      fed := min (2 * n) (r.fed + 1)
      lastHalf := half
      ceilingCount := if x = v.toInt then r.ceilingCount else min 65535 (r.ceilingCount + 1) } := by
  unfold GuardRec.written sample countUp
  by_cases h : x = v.toInt <;> simp [h]

/-- Settles O14: ZC stores the clamped word and counts the write in its guard record. -/
theorem zoneWriteClamped : Obligations.ZoneWriteClamped := by
  intro s p z half j a v ht hl hr x
  refine ⟨_, exec_zoneWrite a v s, ?_⟩
  rw [present_zoneWrite ht hl hr, written_eq]
  refine ⟨?own, fun k hk => ?others, ?stored⟩
  case own => exact guard_setGuard_self ..
  case others => exact (guard_setGuard_ne _ _ _ _ hk).trans (by simp)
  case stored => exact stores_of _ _ _ _ _ _ _ (KeepsAllBut.refl _).setGuard

/-! ### An output read (R75) -/

theorem present_outputRead {s : State} {p : Plan} {z : Fin 48} {half : Fin 2} {j : Nat} {a : Addr}
    (h : s.takes ⟨.outDma, a, .read⟩) (hl : s.loader.live = some p) (hr : s.region a = .zoneBuffer z half j) :
    presentWord ⟨.outDma, a, .read⟩ s =
      startTreatment ⟨.outDma, a, .read⟩ (watchersOf s ⟨.outDma, a, .read⟩) (zcOutputRead z ⟨.outDma, a, .read⟩ s)
        (s.looked ⟨.outDma, a, .read⟩) := by
  rw [present_zone h hl hr]
  simp only [zcWord, zcOutputRead, awLook_store, guard_awLook]

theorem zcOutputRead_silenced {s : State} {z : Fin 48} (w : UpWord)
    (h : (s.guard z).muted = true ∨ (s.guard z).yielding = true ∨ (s.guard z).proof = true) :
    zcOutputRead z w s = .complete (some 0) :=
  if_pos (by simpa [or_assoc] using h)

section
variable {s : State} {z : Fin 48} (w : UpWord)
  (h : ¬ ((s.guard z).muted = true ∨ (s.guard z).yielding = true ∨ (s.guard z).proof = true))
include h

theorem zcOutputRead_dormant (hg : (s.guard z).state = .dormant) : zcOutputRead z w s = .complete (some 0) := by
  unfold zcOutputRead
  dsimp only
  rw [if_neg (by simpa [or_assoc] using h), hg]

theorem zcOutputRead_fed (hg : (s.guard z).state = .live ∨ (s.guard z).state = .lapsing) :
    zcOutputRead z w s = .access [.read w.addr] .checked := by
  unfold zcOutputRead
  dsimp only
  obtain hg | hg := hg
  all_goals rw [if_neg (by simpa [or_assoc] using h), hg]

theorem zcOutputRead_mute (hg : (s.guard z).state = .fallback) (hm : (s.store.effective z).mode = .mute) :
    zcOutputRead z w s = .complete (some 0) := by
  unfold zcOutputRead
  dsimp only
  rw [if_neg (by simpa [or_assoc] using h), hg, hm]

theorem zcOutputRead_fade (hg : (s.guard z).state = .fallback) (hm : (s.store.effective z).mode = .fade) :
    zcOutputRead z w s = .access [.read w.addr] (.faded (s.guard z).fade) := by
  unfold zcOutputRead
  dsimp only
  rw [if_neg (by simpa [or_assoc] using h), hg, hm]

end

/-- Settles O16: the three flags first, then the zone's state and mode, as `zcOutputRead` looks at them. -/
theorem outputReadAnswered : Obligations.OutputReadAnswered := by
  intro s p z half j a ht hl hr g silenced w
  refine ⟨_, exec_outputRead a s, ?_⟩
  rw [present_outputRead ht hl hr]
  refine ⟨fun hs => ?silenced, fun hs => ⟨fun hg => ?dormant, fun hg => ?fed, fun hg hm => ?mute, fun hg hm => ?fade⟩⟩
  case silenced =>
    rw [zcOutputRead_silenced _ hs]
    exact answered_of _ _ _ _ _ (.refl _)
  case dormant =>
    rw [zcOutputRead_dormant _ hs hg]
    exact answered_of _ _ _ _ _ (.refl _)
  case fed =>
    rw [zcOutputRead_fed _ hs hg]
    exact waitsFor_of _ _ _ _ _ _ (.refl _)
  case mute =>
    rw [zcOutputRead_mute _ hs hg hm]
    exact answered_of _ _ _ _ _ (.refl _)
  case fade =>
    rw [zcOutputRead_fade _ hs hg hm]
    exact waitsFor_of _ _ _ _ _ _ (.refl _)

/-! ### The safety entries (R66, R167) -/

/-- A sum of words is the sum of their numbers modulo 2^32. -/
theorem toNat_foldl_add (l : List Word) (b : Word) :
    (l.foldl (· + ·) b).toNat = (b.toNat + (l.map BitVec.toNat).sum) % 4294967296 := by
  induction l generalizing b with
  | nil => simp [Nat.mod_eq_of_lt b.isLt]
  | cons x l ih =>
    rw [List.foldl_cons, ih, BitVec.toNat_add, List.map_cons, List.sum_cons]
    omega

theorem entrySum_toNat (t : SafetyStore) :
    t.entrySum.toNat = ((List.finRange 192).map fun i => (t.words[i.val]).toNat).sum % 4294967296 := by
  unfold SafetyStore.entrySum
  rw [toNat_foldl_add, List.map_map]
  simp [Function.comp_def]

theorem effective_invalid {t : SafetyStore} (z : Fin 48) (h : t.cond = .invalid) :
    t.effective z = ⟨1048575, 2, .mute, true⟩ := by
  unfold SafetyStore.effective
  rw [h]
  rfl

theorem effective_stored {t : SafetyStore} (z : Fin 48) (h : t.cond ≠ .invalid) : t.effective z = t.storedEntries z := by
  unfold SafetyStore.effective
  cases hc : t.cond
  case invalid => exact absurd hc h
  all_goals rfl

theorem toNat_eq_one_iff (v : Word) : v.toNat = 1 ↔ v = 1 := by
  rw [← BitVec.toNat_inj]
  rfl

/-! ### A change of a zone's entries (R70, R83) -/

/-- R70: what a change of the watch frames to W leaves of a guard record. -/
theorem rebounded_eq (g : GuardRec) (W : Nat) :
    (g.state = .fallback → (g.rebounded W).miss = W ∧ (g.rebounded W).state = .fallback) ∧
    (g.state ≠ .fallback → g.miss < W → g.rebounded W = g) ∧
    (g.state ≠ .fallback → W ≤ g.miss → (g.rebounded W).miss = W - 1 ∧
      (g.rebounded W).state = if g.state = .lapsing ∧ W - 1 = 0 then .live else g.state) := by
  unfold GuardRec.rebounded
  refine ⟨fun h => ?fallback, fun h hm => ?below, fun h hm => ?reached⟩
  case fallback => simp [h]
  case below =>
    cases hs : g.state
    case fallback => exact absurd hs h
    all_goals simp [hm]
  case reached =>
    have hn : ¬ g.miss < W := Nat.not_lt.2 hm
    cases hs : g.state
    case fallback => exact absurd hs h
    case dormant => simp [hn]
    case live => simp [hn]
    case lapsing =>
      by_cases h0 : W - 1 = 0 <;> simp [hn, h0]

/-- R70: a change of the watch frames leaves the rest of a guard record. -/
theorem rebounded_rest (g : GuardRec) (W : Nat) :
    (g.rebounded W).fade = g.fade ∧ (g.rebounded W).yielding = g.yielding ∧ (g.rebounded W).muted = g.muted ∧
      (g.rebounded W).proof = g.proof ∧ (g.rebounded W).fed = g.fed ∧ (g.rebounded W).lastHalf = g.lastHalf ∧
      (g.rebounded W).ceilingCount = g.ceilingCount := by
  unfold GuardRec.rebounded
  repeat' split
  all_goals simp

/-- R70: only a FALLBACK zone stays in FALLBACK over a change of its watch frames, and none enters it. -/
theorem rebounded_fallback_iff (g : GuardRec) (W : Nat) : (g.rebounded W).state = .fallback ↔ g.state = .fallback := by
  cases hs : g.state
  case fallback => simp [(rebounded_eq g W).1 hs]
  all_goals
    unfold GuardRec.rebounded
    rw [hs]
    dsimp only
    repeat' split
    all_goals simp_all

/-- The record a change of the entries starts from: rebounded where the watch frames changed. -/
def GuardRec.afterFrames (g : GuardRec) (old new : Entries) : GuardRec :=
  if old.watchFrames = new.watchFrames then g else g.rebounded new.watchFrames

theorem entriesChanged_eq (g : GuardRec) (old new : Entries) (level : Bool) :
    g.entriesChanged old new level = { g.afterFrames old new with
      fade := if (g.afterFrames old new).state = .fallback ∧ old.mode = .mute ∧ new.mode = .fade then 0
        else (g.afterFrames old new).fade
      yielding := if level = true ∧ old.yieldFlag ≠ new.yieldFlag then new.yieldFlag
        else (g.afterFrames old new).yielding } := by
  unfold GuardRec.entriesChanged GuardRec.afterFrames
  dsimp only
  split <;> split <;> split <;> rfl

theorem afterFrames_fallback_iff (g : GuardRec) (old new : Entries) :
    (g.afterFrames old new).state = .fallback ↔ g.state = .fallback := by
  unfold GuardRec.afterFrames
  split
  · rfl
  · exact rebounded_fallback_iff _ _

theorem afterFrames_rest (g : GuardRec) (old new : Entries) :
    (g.afterFrames old new).fade = g.fade ∧ (g.afterFrames old new).yielding = g.yielding ∧
      (g.afterFrames old new).muted = g.muted ∧ (g.afterFrames old new).proof = g.proof ∧
      (g.afterFrames old new).fed = g.fed ∧ (g.afterFrames old new).lastHalf = g.lastHalf ∧
      (g.afterFrames old new).ceilingCount = g.ceilingCount := by
  unfold GuardRec.afterFrames
  split
  · simp
  · exact rebounded_rest _ _

/-- Settles O18: the entries by the store's condition; a change's miss count and state by `rebounded_eq`. -/
theorem safetyEntries : Obligations.SafetyEntries := by
  refine ⟨fun t z => ⟨⟨entrySum_toNat t, rfl⟩, effective_invalid z, fun hc => ?stored⟩, ?changed⟩
  case stored =>
    rw [effective_stored z hc]
    refine ⟨rfl, rfl, ?mode, ?flag⟩
    case mode =>
      show (if (t.words[4 * z.val + 2]).toNat = 1 then FallbackMode.fade else .mute) = .fade ↔ _
      rw [← toNat_eq_one_iff]
      split <;> simp [*]
    case flag =>
      show ((t.words[4 * z.val + 3]).toNat != 0) = true ↔ _
      rw [bne_iff_ne, ne_eq, ne_eq, ← BitVec.toNat_inj]
      rfl
  case changed =>
    intro g old new level t W cut
    obtain ⟨hfade, hyield, hrest⟩ := afterFrames_rest g old new
    have ht : t = _ := entriesChanged_eq g old new level
    have hmiss : t.miss = (g.afterFrames old new).miss := by rw [ht]
    have hstate : t.state = (g.afterFrames old new).state := by rw [ht]
    have hcut : cut = W - 1 := by
      show (if W = 0 then 0 else W - 1) = W - 1
      split <;> omega
    refine ⟨fun h => ?same, fun h => ?moved, ?fade, ?yield, ?rest⟩
    case same =>
      rw [hmiss, hstate]
      exact (by unfold GuardRec.afterFrames; rw [if_pos h]; exact ⟨rfl, rfl⟩)
    case moved =>
      have hframes : g.afterFrames old new = g.rebounded W := if_neg h
      obtain ⟨fallback, below, reached⟩ := rebounded_eq g W
      rw [hmiss, hstate, hframes, hcut]
      exact ⟨fallback, fun hs hm => by rw [below hs hm]; exact ⟨rfl, rfl⟩, reached⟩
    case fade =>
      rw [ht]
      dsimp only
      simp only [afterFrames_fallback_iff, hfade]
    case yield =>
      rw [ht]
      dsimp only
      rw [hyield]
    case rest =>
      rw [ht]
      exact hrest

end Sys2Proof.Machine
end

section
/-!
PROOFS. The edges of YIELD (chapter 4): what an edge makes of every zone's record, then O19.
-/
namespace Sys2Proof.Machine

-- one theorem after another, as in the tests: side by side they take more threads than the memory limit allows
set_option Elab.async false

theorem exec_yieldEdge {s : State} (level : Bool) (h : s.betweenWords) :
    exec (if level then .yieldAssertion else .yieldDeassertion) s = .next (zcEdge level s) := by
  cases level
  case false => exact congrArg Host.Outcome.next (arrive_between h (.yieldEdge false))
  case true => exact congrArg Host.Outcome.next (arrive_between h (.yieldEdge true))

/-! ### One zone at an edge (R81, R82) -/

/-- R81, R82: a guard record after an edge to a level, under its zone's yield flag. -/
def GuardRec.afterEdge (g : GuardRec) (level yieldFlag : Bool) : GuardRec :=
  if level then { g with yielding := g.yielding || yieldFlag, proof := false } else { g with yielding := false }

/-- R81, R82: what an edge does to one zone. -/
def zcEdgeZone (level : Bool) : Fin 48 → State → State := if level then zcAssertZone else zcDeassertZone

/-- An edge changes a zone's record and marks its word, or leaves both. -/
theorem zcEdgeZone_cases (level : Bool) (z : Fin 48) (s : State) :
    let g := (s.guard z).afterEdge level (s.store.effective z).yieldFlag
    (g = s.guard z ∧ zcEdgeZone level z s = s) ∨ zcEdgeZone level z s = (s.setGuard z g).statusChange (zoneOffset z) := by
  cases level
  case false =>
    cases h : (s.guard z).yielding
    case false => exact .inl ⟨(congrArg (fun b => { s.guard z with yielding := b }) h).symm, if_neg (by simp [h])⟩
    case true => exact .inr (if_pos h)
  case true =>
    by_cases h : (s.guard z).afterEdge true (s.store.effective z).yieldFlag = s.guard z
    · exact .inl ⟨h, if_pos h⟩
    · exact .inr (if_neg h)

theorem guard_zcEdgeZone_self (level : Bool) (z : Fin 48) (s : State) :
    (zcEdgeZone level z s).guard z = (s.guard z).afterEdge level (s.store.effective z).yieldFlag := by
  obtain ⟨hg, h⟩ | h := zcEdgeZone_cases level z s
  case inl => rw [h, hg]
  case inr => rw [h, guard_statusChange, guard_setGuard_self]

theorem guard_zcEdgeZone_ne {z k : Fin 48} (level : Bool) (s : State) (hk : k ≠ z) :
    (zcEdgeZone level z s).guard k = s.guard k := by
  obtain ⟨-, h⟩ | h := zcEdgeZone_cases level z s
  case inl => rw [h]
  case inr => rw [h, guard_statusChange, guard_setGuard_ne _ _ _ _ hk]

theorem store_zcEdgeZone (level : Bool) (z : Fin 48) (s : State) : (zcEdgeZone level z s).store = s.store := by
  obtain ⟨-, h⟩ | h := zcEdgeZone_cases level z s
  case inl => rw [h]
  case inr => rw [h, statusChange_store, setGuard_store]

theorem Marked.zcEdgeZone {s : State} {off : Nat} (level : Bool) (z : Fin 48) (hm : Marked s off) :
    Marked (zcEdgeZone level z s) off := by
  obtain ⟨-, h⟩ | h := zcEdgeZone_cases level z s
  case inl => rwa [h]
  case inr => rw [h]; exact (hm.congr (t := s.setGuard z _) rfl rfl).statusChange _

theorem marked_zcEdgeZone {level : Bool} {z : Fin 48} {s : State}
    (h : (s.guard z).afterEdge level (s.store.effective z).yieldFlag ≠ s.guard z) :
    Marked (zcEdgeZone level z s) (54 + z.val) := by
  obtain ⟨hg, -⟩ | hs := zcEdgeZone_cases level z s
  case inl => exact absurd hg h
  case inr => rw [hs]; exact marked_statusChange _ _

/-! ### Every zone at an edge (R80) -/

theorem zoneInUse_iff (s : State) (z : Nat) : s.zoneInUse z = true ↔ ∃ p, s.loader.live = some p ∧ z < p.zoneCount := by
  unfold State.zoneInUse
  cases s.loader.live <;> simp

theorem zcEdgeZones_cold {s : State} (level : Bool) (h : s.loader.live = none) : zcEdgeZones level s = s := by
  unfold zcEdgeZones
  rw [h]

theorem zcEdgeZones_planned {s : State} {p : Plan} (level : Bool) (h : s.loader.live = some p) :
    zcEdgeZones level s = forEach p.zonesInUse (zcEdgeZone level) s := by
  unfold zcEdgeZones
  rw [h]
  rfl

theorem guard_zcEdgeZones (level : Bool) (s : State) (z : Fin 48) :
    (zcEdgeZones level s).guard z =
      if s.zoneInUse z.val = true then (s.guard z).afterEdge level (s.store.effective z).yieldFlag else s.guard z := by
  cases h : s.loader.live with
  | none =>
    rw [zcEdgeZones_cold level h, if_neg (by simp [zoneInUse_iff, h])]
  | some p =>
    have := forEach_record (fun t z => t.guard z) (fun u => u.store = s.store)
      (fun z g => g.afterEdge level (s.store.effective z).yieldFlag) (zcEdgeZone level)
      (fun i u hu => (store_zcEdgeZone level i u).trans hu)
      (fun i u hu => by rw [guard_zcEdgeZone_self, hu]) (fun i k u _ hk => guard_zcEdgeZone_ne level u hk)
      p.zonesInUse (nodup_zonesInUse p) s rfl z
    rw [zcEdgeZones_planned level h, this]
    simp only [mem_zonesInUse, zoneInUse_iff, h, Option.some.injEq, exists_eq_left']

theorem marked_zcEdgeZones {level : Bool} {s : State} {z : Fin 48} (h : (zcEdgeZones level s).guard z ≠ s.guard z) :
    Marked (zcEdgeZones level s) (54 + z.val) := by
  rw [guard_zcEdgeZones] at h
  by_cases hz : s.zoneInUse z.val = true
  case neg => exact absurd (if_neg hz) h
  case pos =>
    rw [if_pos hz] at h
    obtain ⟨p, hp, hlt⟩ := (zoneInUse_iff s z.val).1 hz
    rw [zcEdgeZones_planned level hp]
    exact forEach_event (fun t z => t.guard z) (fun u => u.store = s.store) (Marked · (54 + z.val))
      (fun g => g.afterEdge level (s.store.effective z).yieldFlag ≠ g) (zcEdgeZone level)
      (fun i u hu => (store_zcEdgeZone level i u).trans hu) (fun i k u _ hk => guard_zcEdgeZone_ne level u hk)
      (fun i u hu => hu.zcEdgeZone level i) p.zonesInUse (nodup_zonesInUse p) s rfl z ((mem_zonesInUse p z).2 hlt) h
      (fun u hu hg => marked_zcEdgeZone (by rw [hu]; exact hg))

/-! ### An edge (R79) -/

/-- The state an edge leaves before its report: the level, the zones and word 21. -/
def edgeTaken (level : Bool) (s : State) : State := (zcEdgeZones level { s with yieldLevel := level }).statusChange 21

theorem zcEdge_starting {level : Bool} {s : State} (h : s.yieldLevel ≠ level) (hd : s.command.device = .starting) :
    zcEdge level s = edgeTaken level s := by
  unfold zcEdge
  rw [if_neg h]
  exact if_pos hd

theorem zcEdge_reported {level : Bool} {s : State} (h : s.yieldLevel ≠ level) (hd : s.command.device ≠ .starting) :
    zcEdge level s = (edgeTaken level s).request .yieldChange 0 (word (flag level))
      (word (yieldingCount (edgeTaken level s))) := by
  unfold zcEdge
  rw [if_neg h]
  exact if_neg hd

theorem keeps_edgeTaken (level : Bool) (s : State) :
    KeepsAllBut (.yieldLevel :: .guards :: statusParts) s (edgeTaken level s) := by
  have hlevel : KeepsAllBut (.yieldLevel :: .guards :: statusParts) s { s with yieldLevel := level } := fun q hq => by
    cases q
    case yieldLevel => exact absurd (by decide) hq
    all_goals rfl
  exact hlevel.zcEdgeZones.statusChange

theorem yieldLevel_edgeTaken (level : Bool) (s : State) : (edgeTaken level s).yieldLevel = level :=
  (((KeepsAllBut.refl { s with yieldLevel := level }).zcEdgeZones (c := .guards :: statusParts)).statusChange)
    .yieldLevel (by decide)

theorem guard_edgeTaken (level : Bool) (s : State) (z : Fin 48) :
    (edgeTaken level s).guard z =
      if s.zoneInUse z.val = true then (s.guard z).afterEdge level (s.store.effective z).yieldFlag else s.guard z :=
  (guard_statusChange _ _ _).trans (guard_zcEdgeZones level { s with yieldLevel := level } z)

theorem marked_edgeTaken {level : Bool} {s : State} {z : Fin 48} (h : (edgeTaken level s).guard z ≠ s.guard z) :
    Marked (edgeTaken level s) (54 + z.val) := by
  refine (marked_zcEdgeZones (s := { s with yieldLevel := level }) ?_).statusChange 21
  unfold edgeTaken at h
  rwa [guard_statusChange] at h

/-- R80: the count of the YIELD report. -/
theorem yieldingCount_eq (s : State) :
    yieldingCount s = ((List.finRange 48).filter fun z => s.zoneInUse z.val && (s.guard z).yielding).length := by
  unfold yieldingCount State.zoneInUse
  cases s.loader.live with
  | none => simp
  | some p =>
    simp only [Plan.zonesInUse, List.filter_filter, Option.any_some]
    congr 2
    funext z
    exact Bool.and_comm _ _

theorem zoneInUse_edgeTaken (level : Bool) (s : State) (z : Nat) : (edgeTaken level s).zoneInUse z = s.zoneInUse z := by
  unfold State.zoneInUse
  rw [keeps_edgeTaken level s .live (by decide)]

theorem reported_edge {level : Bool} {s : State} (h : s.yieldLevel ≠ level) (hd : s.command.device ≠ .starting) :
    Reported s (zcEdge level s) .yieldChange 0 (word (flag level)) (word (yieldingCount (edgeTaken level s))) := by
  have hk := keeps_edgeTaken level s
  have hstamp : (edgeTaken level s).command.lastStamp = s.command.lastStamp := hk .lastStamp (by decide)
  have hnone : Asks s.command.lastStamp s (edgeTaken level s) [] := asks_nil _ (hk .head (by decide))
    (hk .tail (by decide)) (hk .queue (by decide)) (hk .dropped (by decide)) (hk .total (by decide))
  rw [zcEdge_reported h hd]
  exact hnone.request hstamp _ _ _ _

/-- The edge's report touches neither the level nor a guard record nor the words marked. -/
theorem zcEdge_edgeTaken {level : Bool} {s : State} (h : s.yieldLevel ≠ level) :
    (zcEdge level s).yieldLevel = (edgeTaken level s).yieldLevel ∧
      (∀ z, (zcEdge level s).guard z = (edgeTaken level s).guard z) ∧
      ∀ off, Marked (edgeTaken level s) off → Marked (zcEdge level s) off := by
  by_cases hd : s.command.device = .starting
  · rw [zcEdge_starting h hd]
    exact ⟨rfl, fun _ => rfl, fun _ hm => hm⟩
  · rw [zcEdge_reported h hd]
    exact ⟨request_yieldLevel .., fun z => guard_request .., fun _ hm => hm.request ..⟩

/-- Settles O19: the state before the report (`edgeTaken`), then the report where the part has started. -/
theorem yieldEdgeTaken : Obligations.YieldEdgeTaken := by
  refine ⟨zoneInUse_iff, fun s level hb hne => ⟨_, exec_yieldEdge level hb, ?_⟩⟩
  obtain ⟨hlevel, hguard, hmarked⟩ := zcEdge_edgeTaken hne
  have hz (z : Fin 48) := (hguard z).trans (guard_edgeTaken level s z)
  refine ⟨hlevel.trans (yieldLevel_edgeTaken level s), hmarked _ (marked_statusChange _ _),
    (KeepsAllBut.refl s).zcEdge, fun z => ⟨fun hu => ?unused, fun hu hl => ?asserted, fun hu hl => ?deasserted,
    fun hg => ?marked⟩, fun hd => ?silent, fun hd => ?reported⟩
  case unused => rw [hz, if_neg (by simp [hu])]
  case asserted => rw [hz, if_pos hu, hl]; rfl
  case deasserted => rw [hz, if_pos hu, hl]; rfl
  case marked => exact hmarked _ (marked_edgeTaken (by rwa [hguard] at hg))
  case silent =>
    have hk := keeps_edgeTaken level s
    rw [zcEdge_starting hne hd]
    exact ⟨hk .queue (by decide), hk .dropped (by decide), hk .total (by decide)⟩
  case reported =>
    have h := reported_edge hne hd
    rw [yieldingCount_eq] at h
    simp only [zoneInUse_edgeTaken, ← hguard] at h
    have hf : word (flag level) = if level then 1 else 0 := by cases level <;> rfl
    rwa [hf] at h

end Sys2Proof.Machine
end

section
/-!
PROOFS. The memory path (chapter 5): plain words (O20), what waits for a word's end (O21), grants of the port (O24) and
the answers formed from memory (O26).
-/
namespace Sys2Proof.Machine

-- one theorem after another, as in the tests: side by side they take more threads than the memory limit allows
set_option Elab.async false

theorem exec_plainWord (m : Master) (a : Addr) (d : Dir) (s : State) :
    exec (.plainWord m a d) s = .next (presentWord ⟨m, a, d⟩ s) := rfl

/-! ### Plain words (R87, R89, R90) -/

/-- R93: a row that stands for an upstream word presents that word. -/
theorem exec_presents {s : State} {c : Instr} {w : UpWord} (h : presents c s = some w) :
    exec c s = .next (presentWord w s) := by
  cases c
  all_goals
    cases h
    try rfl

theorem passesPlain_awLook {s : State} {w : UpWord} (h : s.passesPlain w) : (awLook w s).passesPlain w := by
  unfold State.passesPlain State.region at h ⊢
  rw [awLook_path_straps, awLook_loader]
  exact h

theorem plainTreatment_eq (w : UpWord) : plainTreatment w = .access [plainAccess w] (plainForm w) := by
  obtain ⟨m, a, d⟩ := w
  cases d <;> rfl

theorem presentWord_plain {s : State} {w : UpWord} (ht : s.takes w) (hp : s.passesPlain w) :
    presentWord w s =
      startTreatment w (watchersOf s w) (.access [plainAccess w] (plainForm w)) (s.looked w) := by
  rw [presentWord_takes s w ht, ownerTreatment_plain (passesPlain_awLook hp), plainTreatment_eq]

/-- R90, R145: during STARTING a word passes plain, and no block sees it. -/
theorem presentWord_starting {s : State} (w : UpWord) (hb : s.betweenWords) (hd : s.command.device = .starting) :
    presentWord w s = startTreatment w [] (.access [plainAccess w] (plainForm w)) s := by
  obtain ⟨hreset, hhand⟩ := hb
  unfold presentWord takeWord
  rw [if_neg (by simp [hreset]), if_neg (by simp [hhand]), if_pos hd, plainTreatment_eq]

/-- Settles O20: every such row presents its word (`exec_presents`); past start-up and during it a plain word's access
is at its own address. -/
theorem plainWords : Obligations.PlainWords := by
  refine ⟨fun s c w h => exec_presents h, fun s m a d => ⟨fun ht hp => ⟨_, exec_plainWord m a d s, ?taken⟩,
    fun hb hd => ?starting⟩⟩
  case taken =>
    rw [presentWord_plain ht hp]
    exact waitsFor_of _ _ _ _ _ _ (.refl _)
  case starting =>
    rw [exec_plainWord, presentWord_starting _ hb hd]
    rfl

/-! ### What waits for a word's end (R88) -/

theorem arrive_inHand {s : State} (hr : s.path.resetHeld = false) (h : s.path.inHand ≠ none) (e : SlowEvent) :
    arrive e s = s.setPath { s.path with held := s.path.held ++ [e] } := by
  unfold arrive
  rw [if_neg (by simp [hr]), deliver_inHand h]

/-- The rows of the part's own events and of the YIELD pin, each with the event that arrives. -/
theorem exec_slowEvent {c : Instr} {e : SlowEvent} (h : (c, e) ∈
    [(Instr.startUpCheck, SlowEvent.startUpCheck), (.endOfChecks, .endOfChecks),
      (.entryProgrammingCompletion, .entryProgrammed), (.checksumProgrammingCompletion, .checksumProgrammed),
      (.yieldAssertion, .yieldEdge true), (.yieldDeassertion, .yieldEdge false)]) (s : State) :
    exec c s = .next (arrive e s) := by
  simp only [List.mem_cons, Prod.mk.injEq, List.not_mem_nil, or_false] at h
  obtain ⟨rfl, rfl⟩ | ⟨rfl, rfl⟩ | ⟨rfl, rfl⟩ | ⟨rfl, rfl⟩ | ⟨rfl, rfl⟩ | ⟨rfl, rfl⟩ := h
  all_goals rfl

/-- R98: in the middle of a word the end of an own access waits, its data in memory and its port free. -/
theorem ownComplete_inHand {s : State} {x : OwnAccess} {row : OwnCompletion} (hi : s.path.inHand ≠ none)
    (hp : s.path.port = some (.own x)) (hr : completionOf x = some row) :
    ownComplete row s = (ownMemory x s).setPath { s.path with port := none, held := s.path.held ++ [endOf x s] } := by
  have hpath : (ownMemory x s).path = s.path := by
    unfold ownMemory
    cases x.data <;> rfl
  unfold ownComplete
  rw [hp]
  dsimp only
  rw [if_pos hr, deliver_inHand (by simpa [freePort, hpath] using hi)]
  unfold freePort
  simp only [setPath_path, hpath]
  rfl

theorem ownMemory_write {x : OwnAccess} {v : Word} (h : x.data = some v) (s : State) :
    ownMemory x s = s.memWrite (planAddr s.path.straps x.offset) v := by
  unfold ownMemory
  rw [h]
  rfl

theorem endOf_write {x : OwnAccess} {v : Word} (h : x.data = some v) (s : State) : endOf x s = .ownWritten x := by
  unfold endOf
  rw [h]

/-- The row that ends an own write. -/
theorem exec_ownWrite {c : Instr} {x : OwnAccess} {v : Word}
    (h : (c = .answerWriteComplete ∧ x = .answerWrite v) ∨ (c = .headWriteComplete ∧ ∃ i, x = .headWrite i) ∨
      (c = .statusWriteComplete ∧ ∃ off, x = .statusWrite off v) ∨
      (c = .imageWriteComplete ∧ ∃ i, x = .imageWrite i v)) (s : State) :
    ∃ row, completionOf x = some row ∧ exec c s = .next (ownComplete row s) := by
  obtain ⟨rfl, rfl⟩ | ⟨rfl, i, rfl⟩ | ⟨rfl, off, rfl⟩ | ⟨rfl, i, rfl⟩ := h
  all_goals exact ⟨_, rfl, rfl⟩

/-- Settles O21: a word joins `waiting` and an event `held`, each at the end. -/
theorem wordInHandHoldsBackTheRest : Obligations.WordInHandHoldsBackTheRest := by
  intro s m a d
  refine ⟨fun hr => ?reset, fun hr hi => ⟨?word, fun c e hc => ?event⟩, fun hi => ⟨fun off hp => ?read,
    fun c x v hp hx hc => ?written⟩⟩
  case reset => exact congrArg Host.Outcome.next (if_pos hr)
  case word =>
    rw [exec_plainWord]
    unfold presentWord
    rw [if_neg (by simp [hr]), if_pos (by simpa [Option.isSome_iff_ne_none] using hi)]
  case event => rw [exec_slowEvent hc, arrive_inHand hr hi]
  case read => exact congrArg Host.Outcome.next (ownComplete_inHand hi hp rfl)
  case written =>
    obtain ⟨row, hrow, hexec⟩ := exec_ownWrite hc s
    rw [hexec, ownComplete_inHand hi hp hrow, ownMemory_write hx, endOf_write hx]

/-! ### Grants of the port (R95, R97) -/

theorem upstreamWaits_iff (p : MemPath) : upstreamWaits p = true ↔ ∃ h, p.inHand = some h ∧ h.accesses ≠ [] := by
  unfold upstreamWaits
  cases p.inHand <;> simp

theorem ownWaits_iff (p : MemPath) : ownWaits p = true ↔ ∃ c, p.issued c ≠ [] := by
  have hall : (∃ c, p.issued c ≠ []) ↔ p.ownPL ≠ [] ∨ p.ownCU ≠ [] ∨ p.ownRW ≠ [] ∨ p.ownSS ≠ [] := by
    refine ⟨fun ⟨c, hc⟩ => ?_, fun h => ?_⟩
    · cases c
      case pl => exact .inl hc
      case cu => exact .inr (.inl hc)
      case rw => exact .inr (.inr (.inl hc))
      case ss => exact .inr (.inr (.inr hc))
    · obtain h | h | h | h := h
      exacts [⟨.pl, h⟩, ⟨.cu, h⟩, ⟨.rw, h⟩, ⟨.ss, h⟩]
  rw [hall]
  unfold ownWaits
  simp only [Bool.not_eq_true', Bool.and_eq_false_iff, List.isEmpty_eq_false_iff]
  tauto

theorem hasCompletion_false_iff (x : OwnAccess) :
    hasCompletion x = false ↔ (∃ n v, x = .detailWrite n v) ∨ ∃ i k v, x = .entryWrite i k v := by
  cases x <;> simp [hasCompletion]

theorem portGrant_busy {s : State} (h : s.path.port ≠ none) : portGrant s = s := by
  unfold portGrant
  cases hp : s.path.port with
  | none => exact absurd hp h
  | some _ => rfl

theorem portGrant_unclaimed {s : State} (hp : s.path.port = none) (hu : upstreamWaits s.path = false)
    (ho : ownWaits s.path = false) : portGrant s = s := by
  unfold portGrant
  rw [hp, hu, ho]
  rfl

theorem portGrant_upstream {s : State} {h : InHand} {x : Access} {rest : List Access} (hp : s.path.port = none)
    (hh : s.path.inHand = some h) (ha : h.accesses = x :: rest) (hc : ownWaits s.path = true → s.path.count < 8) :
    portGrant s = s.setPath { s.path with
      port := some (.upstream x), inHand := some { h with accesses := rest }
      count := if ownWaits s.path then s.path.count + 1 else 0 } := by
  have hu : upstreamWaits s.path = true := (upstreamWaits_iff _).2 ⟨h, hh, by simp [ha]⟩
  unfold portGrant
  rw [hp, hu]
  cases ho : ownWaits s.path
  case false =>
    simp [arbitrate, grantUpstream, hh, ha, hp]
    rfl
  case true =>
    simp [arbitrate, if_pos (hc ho), grantUpstream, hh, ha, hp]
    rfl

/-- R95, R97: a grant of an own access is a service of the client the rotation finds. -/
theorem portGrant_own {s : State} {c : Client} (hp : s.path.port = none)
    (hu : upstreamWaits s.path = true → 8 ≤ s.path.count)
    (hc : s.path.pointer.rotation.find? (fun k => !(s.path.issued k).isEmpty) = some c) :
    portGrant s = serve c (s.setPath { s.path with count := 0 }) := by
  have hissued : s.path.issued c ≠ [] := by simpa using List.find?_some hc
  have ho : ownWaits s.path = true := (ownWaits_iff _).2 ⟨c, hissued⟩
  have hissued' (k : Client) : MemPath.issued { s.path with count := 0 } k = s.path.issued k := by cases k <;> rfl
  have hgrant : grantOwn (s.setPath { s.path with count := 0 }) = serve c (s.setPath { s.path with count := 0 }) := by
    unfold grantOwn
    simp only [setPath_path, hissued', hc]
  unfold portGrant
  rw [hp, ho]
  cases hw : upstreamWaits s.path
  case false => exact hgrant
  case true =>
    have hn : ¬ s.path.count < 8 := Nat.not_lt.2 (hu hw)
    simp only [arbitrate, if_neg hn]
    exact hgrant

theorem serve_count {s : State} {c : Client} {x : OwnAccess} {rest : List OwnAccess}
    (h : s.path.issued c = x :: rest) :
    serve c (s.setPath { s.path with count := 0 }) =
      if hasCompletion x then
        s.setPath { s.path.setIssued c rest with pointer := c.next, count := 0, port := some (.own x) }
      else ownMemory x (s.setPath { s.path.setIssued c rest with pointer := c.next, count := 0 }) := by
  have h' : MemPath.issued { s.path with count := 0 } c = x :: rest := by rw [← h]; cases c <;> rfl
  unfold serve
  simp only [setPath_path, h']
  cases c <;> rfl

theorem straps_setIssued (p : MemPath) (c : Client) (l : List OwnAccess) : (p.setIssued c l).straps = p.straps := by
  cases c <;> rfl

/-- Settles O24: the terms by their cases, and the grant by who the arbiter and the rotation find. -/
theorem portGrantArbitrates : Obligations.PortGrantArbitrates := by
  refine ⟨fun p => ⟨upstreamWaits_iff p, ownWaits_iff p⟩, ⟨rfl, rfl, rfl, rfl, fun _ => rfl⟩, ?offsets, ?data, ?issued,
    fun s => ⟨fun h => ?busy, fun hp hu ho => ?unclaimed, fun h x rest hp hh ha hc => ?upstream,
      fun c x rest hp hu hc hx => ?own⟩⟩
  case offsets =>
    intro x
    cases x <;> rfl
  case data =>
    intro x
    refine ⟨hasCompletion_false_iff x, ?_⟩
    cases x <;> rfl
  case issued =>
    intro p c l
    cases c <;> exact ⟨rfl, rfl⟩
  case busy => exact congrArg Host.Outcome.next (portGrant_busy h)
  case unclaimed => exact congrArg Host.Outcome.next (portGrant_unclaimed hp hu ho)
  case upstream => exact congrArg Host.Outcome.next (portGrant_upstream hp hh ha hc)
  case own =>
    have hgrant := (portGrant_own hp hu hc).trans (serve_count hx)
    refine ⟨fun hcomp => ?port, fun v hcomp hv => ?memory⟩
    case port =>
      rw [if_pos hcomp] at hgrant
      exact congrArg Host.Outcome.next hgrant
    case memory =>
      rw [if_neg (by simp [hcomp]), ownMemory_write hv] at hgrant
      have hstraps := straps_setIssued s.path c rest
      exact (congrArg Host.Outcome.next hgrant).trans
        (congrArg (fun a => Host.Outcome.next (State.memWrite _ (planAddr a x.offset) v)) hstraps)

/-! ### The answers formed from memory (R47, R49, R56, R75, R76) -/

theorem clampTo_eq {c : Int} (x : Int) (h : 0 ≤ c) : clampTo c x = min c (max (-c) x) := by
  unfold clampTo
  split
  case isTrue h1 => omega
  case isFalse h1 => split <;> omega

theorem legalSample_eq (v : Word) : legalSample v = min 8388607 (max (-8388607) v.toInt) :=
  clampTo_eq v.toInt (by decide)

/-- R56: an answer saturates exactly if the clamp moves it. -/
theorem trimSaturates_iff (trim : Nat) (x : Int) :
    trimSaturates trim x = true ↔ trimmed trim x < -8388607 ∨ 8388607 < trimmed trim x := by
  have h : clampLegal (trimmed trim x) = min 8388607 (max (-8388607) (trimmed trim x)) :=
    clampTo_eq (trimmed trim x) (by decide)
  unfold trimSaturates
  rw [bne_iff_ne, h]
  omega

theorem saturatedZone_steady (z : Fin 48) (trim : Nat) (v : Word) :
    saturatedZone (.steady z trim) [v] =
      if trimmed trim (legalSample v) < -8388607 ∨ 8388607 < trimmed trim (legalSample v) then some z else none := by
  unfold saturatedZone
  simp only [trimSaturates_iff]

theorem saturatedZone_blend (z : Fin 48) (weight trim : Nat) (va vb : Word) :
    saturatedZone (.blend z weight trim) [va, vb] =
      if trimmed trim (blend weight (legalSample va) (legalSample vb)) < -8388607 ∨
        8388607 < trimmed trim (blend weight (legalSample va) (legalSample vb)) then some z else none := by
  unfold saturatedZone
  simp only [trimSaturates_iff]

/-- R49: a weight stays below 256, for a step and a word within the glide. -/
theorem blendWeight_le {F g k j : Nat} (hj : j < F) (hk : k < g) : blendWeight F g k j ≤ 255 := by
  have hlt : k * F + j < g * F := by
    have hstep : (k + 1) * F ≤ g * F := Nat.mul_le_mul_right F hk
    rw [Nat.succ_mul] at hstep
    omega
  have : 256 * (k * F + j) / (g * F) < 256 := (Nat.div_lt_iff_lt_mul (by omega)).2 (by omega)
  exact Nat.le_of_lt_succ this

theorem saturatedZone_untrimmed {f : Form} (vs : List Word)
    (h : f = .plain ∨ f = .store ∨ f = .checked ∨ ∃ level, f = .faded level) : saturatedZone f vs = none := by
  obtain rfl | rfl | rfl | ⟨level, rfl⟩ := h
  all_goals cases vs <;> rfl

theorem formAnswer_store (vs : List Word) : formAnswer .store vs = none := by
  cases vs <;> rfl

/-- Settles O26: each clause is one equation of `formAnswer` and `saturatedZone`. -/
theorem answersFormedFromMemory : Obligations.AnswersFormedFromMemory :=
  ⟨fun _ x h => clampTo_eq x h, ⟨fun _ => rfl, rfl⟩, legalSample_eq, fun _ => rfl,
    fun vs => ⟨formAnswer_store vs, fun _ h => saturatedZone_untrimmed vs h⟩, fun _ => rfl, fun _ _ => rfl,
    fun z trim v => ⟨rfl, saturatedZone_steady z trim v⟩,
    fun z weight trim va vb => ⟨rfl, saturatedZone_blend z weight trim va vb⟩,
    fun F g k j hj hk => ⟨blendWeight_le hj hk, by simp [blendWeight]⟩⟩

end Sys2Proof.Machine
end

section
/-!
PROOFS. The end of an upstream access (chapter 5): memory, the word in hand and what waited for its end (O25), and the
trimmed answer of a tap read (O27).
-/
namespace Sys2Proof.Machine

-- one theorem after another, as in the tests: side by side they take more threads than the memory limit allows
set_option Elab.async false

/-! ### The access at the DRAM -/

/-- The state once an upstream access has reached memory and left the port. -/
def accessMade (x : Access) (s : State) : State := upstreamMemory x (freePort s)

theorem path_accessMade (x : Access) (s : State) : (accessMade x s).path = { s.path with port := none } := by
  cases x <;> rfl

theorem keeps_accessMade (x : Access) (s : State) : KeepsAllBut [.port, .mem] s (accessMade x s) := by
  intro q hq
  cases x
  all_goals
    cases q
    case port => exact absurd (by decide) hq
    case mem => exact absurd (by decide) hq
    all_goals rfl

/-- What memory holds once an upstream access is made. -/
def memAfter (x : Access) (s : State) (b : Addr) : Word :=
  match x with
  | .read _ => s.memRead b
  | .write a v => if b = a then v else s.memRead b

theorem memRead_accessMade {s : State} (x : Access) (b : Addr) (hw : s.mem.wf) :
    (accessMade x s).memRead b = memAfter x s b := by
  cases x with
  | read a => rfl
  | write a v => exact memRead_memWrite (freePort s) a b v hw

theorem memRead_of_keeps {c : List Part} {s t : State} (h : KeepsAllBut c s t) (b : Addr)
    (hc : Part.mem ∉ c := by decide) : t.memRead b = s.memRead b := by
  unfold State.memRead
  rw [h .mem hc]

/-! ### The word in hand (R88) -/

/-- R88: an access that is not the word's last: the next one waits. -/
theorem upstreamComplete_unfinished {s : State} {h : InHand} {x : Access} (hp : s.path.port = some (.upstream x))
    (hh : s.path.inHand = some h) (ha : h.accesses ≠ []) :
    upstreamComplete s = (accessMade x s).setPath { (accessMade x s).path with
      inHand := some { h with returned := h.returned ++ accessReturns x s } } := by
  have hi : (accessMade x s).path.inHand = some h := by rw [path_accessMade]; exact hh
  unfold upstreamComplete
  rw [hp]
  show upstreamDone x s = _
  unfold upstreamDone
  dsimp only
  unfold accessMade at hi ⊢
  rw [hi]
  exact if_neg (by simpa using ha)

/-- The words returned once an access has completed. -/
def InHand.nowReturned (h : InHand) (x : Access) (s : State) : List Word := h.returned ++ accessReturns x s

/-- The access is made and its saturation counted. -/
def accessCounted (h : InHand) (x : Access) (s : State) : State :=
  countSaturation (saturatedZone h.form (h.nowReturned x s)) (accessMade x s)

/-- The word in hand has completed towards its master. -/
def wordDone (h : InHand) (x : Access) (s : State) : State :=
  (accessCounted h x s).setPath { (accessCounted h x s).path with
    inHand := none, lastDone := some ⟨h.word, formAnswer h.form (h.nowReturned x s)⟩ }

/-- The state at the end of a word, before what waited for it is taken. -/
def wordEnded (h : InHand) (x : Access) (s : State) : State :=
  forEach h.watchers (awData (formAnswer h.form (h.nowReturned x s))) (wordDone h x s)

/-- R88: the word's last access completes: the word ends, and what waited for that is taken. -/
theorem upstreamComplete_finished {s : State} {h : InHand} {x : Access} (hp : s.path.port = some (.upstream x))
    (hh : s.path.inHand = some h) (ha : h.accesses = []) : upstreamComplete s = afterWord (wordEnded h x s) := by
  have hi : (accessMade x s).path.inHand = some h := by rw [path_accessMade]; exact hh
  unfold upstreamComplete
  rw [hp]
  show upstreamDone x s = _
  unfold upstreamDone
  dsimp only
  unfold accessMade at hi
  rw [hi]
  exact if_pos (by simp [ha])

/-! ### What the end of a word leaves -/

theorem tap_countSaturation (o : Option (Fin 48)) (s : State) (z : Fin 48) : (countSaturation o s).tap z =
    if o = some z then { s.tap z with saturations := min 65535 ((s.tap z).saturations + 1) } else s.tap z := by
  cases o with
  | none => rfl
  | some y =>
    show (teSaturate y s).tap z = _
    unfold teSaturate
    rw [tap_setTap]
    by_cases h : z = y
    · subst h
      simp [countUp]
    · rw [if_neg h, if_neg fun e => h (Option.some.inj e).symm]

theorem keeps_countSaturation (o : Option (Fin 48)) (s : State) : KeepsAllBut [.taps] s (countSaturation o s) := by
  cases o with
  | none => exact .refl s
  | some y => exact (KeepsAllBut.refl s).teSaturate

/-- The word's own end leaves the taps to the saturation. -/
theorem tap_wordEnded (h : InHand) (x : Access) (s : State) (z : Fin 48) : (wordEnded h x s).tap z =
    if saturatedZone h.form (h.nowReturned x s) = some z then
      { s.tap z with saturations := min 65535 ((s.tap z).saturations + 1) }
    else s.tap z := by
  refine (tap_of_keeps (keeps_awDataAll _ _ _) z (by decide)).trans ((tap_countSaturation _ _ z).trans ?_)
  rw [tap_of_keeps (keeps_accessMade x s) z (by decide)]

theorem keeps_accessCounted (h : InHand) (x : Access) (s : State) :
    KeepsAllBut [.port, .mem, .taps] s (accessCounted h x s) :=
  ((keeps_accessMade x s).mono (by decide)).trans ((keeps_countSaturation _ _).mono (by decide))

theorem keeps_wordDone (h : InHand) (x : Access) (s : State) :
    KeepsAllBut [.port, .inHand, .mem, .lastDone, .taps] s (wordDone h x s) :=
  ((keeps_accessCounted h x s).mono (by decide)).setDone

theorem unit_of_keeps {c : List Part} {s t : State} (h : KeepsAllBut c s t) (u : Fin 4)
    (hc : Part.watch ∉ c := by decide) : t.unit u = s.unit u := by
  unfold State.unit
  rw [h .watch hc]

theorem unit_wordEnded (h : InHand) (x : Access) (s : State) (u : Fin 4) : (wordEnded h x s).unit u =
    if u ∈ h.watchers then
      { s.unit u with firstHit := (s.unit u).firstHit.map fun r =>
        { r with data := r.data.or (formAnswer h.form (h.nowReturned x s)) } }
    else s.unit u := by
  have hbefore : (wordDone h x s).unit u = s.unit u := unit_of_keeps (keeps_wordDone h x s) u (by decide)
  refine (unit_awDataAll _ _ _ u).trans ?_
  rw [hbefore]
  rfl

theorem keeps_wordEnded (h : InHand) (x : Access) (s : State) :
    KeepsAllBut ([.port, .inHand, .mem, .lastDone, .taps] ++ if h.watchers = [] then [] else .watch :: statusParts) s
      (wordEnded h x s) := by
  by_cases hw : h.watchers = []
  case pos =>
    rw [if_pos hw, List.append_nil]
    unfold wordEnded
    rw [hw]
    exact keeps_wordDone h x s
  case neg =>
    rw [if_neg hw]
    exact ((keeps_wordDone h x s).mono (by decide)).trans ((keeps_awDataAll _ _ _).mono (by decide))

theorem path_wordEnded (h : InHand) (x : Access) (s : State) :
    (wordEnded h x s).path.inHand = none ∧
      (wordEnded h x s).path.lastDone = some ⟨h.word, formAnswer h.form (h.nowReturned x s)⟩ ∧
      (wordEnded h x s).path.port = none ∧ (wordEnded h x s).path.held = s.path.held ∧
      (wordEnded h x s).path.waiting = s.path.waiting := by
  have hend : KeepsAllBut (.watch :: statusParts) (wordDone h x s) (wordEnded h x s) := keeps_awDataAll _ _ _
  have hcount : KeepsAllBut [.taps] (accessMade x s) (accessCounted h x s) := keeps_countSaturation _ _
  have hdone := keeps_wordDone h x s
  refine ⟨hend .inHand (by decide), hend .lastDone (by decide), ?port, ?held, ?waiting⟩
  case port =>
    calc (wordEnded h x s).path.port = (wordDone h x s).path.port := hend .port (by decide)
      _ = (accessMade x s).path.port := hcount .port (by decide)
      _ = none := by rw [path_accessMade]
  case held =>
    calc (wordEnded h x s).path.held = (wordDone h x s).path.held := hend .held (by decide)
      _ = s.path.held := hdone .held (by decide)
  case waiting =>
    calc (wordEnded h x s).path.waiting = (wordDone h x s).path.waiting := hend .waiting (by decide)
      _ = s.path.waiting := hdone .waiting (by decide)

theorem memRead_wordEnded {h : InHand} {x : Access} {s : State} (hw : s.mem.wf) (b : Addr) :
    (wordEnded h x s).memRead b = memAfter x s b :=
  calc (wordEnded h x s).memRead b = (wordDone h x s).memRead b := memRead_of_keeps (keeps_awDataAll _ _ _) b (by decide)
    _ = (accessMade x s).memRead b := memRead_of_keeps (keeps_countSaturation _ _) b (by decide)
    _ = memAfter x s b := memRead_accessMade x b hw

/-! ### What waited for the end (R88) -/

theorem keeps_afterWord (s : State) : KeepsAllBut wordParts s (afterWord s) := (KeepsAllBut.refl s).afterWord

theorem matchingUnits_of_keeps {c : List Part} {s t : State} (h : KeepsAllBut c s t) (w : UpWord)
    (hc : Part.watch ∉ c := by decide) : matchingUnits t w = matchingUnits s w := by
  unfold matchingUnits
  simp only [unit_of_keeps h _ hc]

theorem passesPlain_of_keeps {c : List Part} {s t : State} {w : UpWord} (h : KeepsAllBut c s t) (hp : s.passesPlain w)
    (hs : Part.straps ∉ c := by decide) (hl : Part.live ∉ c := by decide) : t.passesPlain w := by
  unfold State.passesPlain State.region at hp ⊢
  rw [h .straps hs, h .live hl]
  exact hp

/-- A word that waited and passes plain is in hand after the end of the one before it. -/
theorem afterWord_plain {s : State} {w : UpWord} {rest : List UpWord} (hh : s.path.held = [])
    (hw : s.path.waiting = w :: rest) (hd : s.command.device ≠ .starting) (hu : s.unwatched w) (hp : s.passesPlain w) :
    afterWord s = s.setPath { s.path with
      waiting := rest, inHand := some ⟨w, plainForm w, [plainAccess w], [], []⟩ } := by
  have ht : takeWord w (s.setPath { s.path with waiting := rest }) = _ :=
    takeWord_plain (s := s.setPath { s.path with waiting := rest }) hd hu hp
  have h := afterWord_word hh hw
  dsimp only at h
  rw [h, ht]
  exact if_neg (by simp)

theorem yieldLevel_zcEdge (level : Bool) (s : State) : (zcEdge level s).yieldLevel = level := by
  by_cases h : s.yieldLevel = level
  · unfold zcEdge
    rw [if_pos h, h]
  · exact (zcEdge_edgeTaken h).1.trans (yieldLevel_edgeTaken level s)

/-- An edge of YIELD that waited alone is taken at the end of the word. -/
theorem afterWord_edge {s : State} {level : Bool} (hh : s.path.held = [.yieldEdge level]) (hw : s.path.waiting = []) :
    (afterWord s).yieldLevel = level ∧ (afterWord s).path.held = [] := by
  have hwaits := takeEvent_waits (.yieldEdge level) (s.setPath { s.path with held := [] })
  rw [afterWord_event hh, afterWord_idle hwaits.1 (hwaits.2.trans hw)]
  exact ⟨yieldLevel_zcEdge level _, hwaits.1⟩

theorem exec_upstreamComplete (s : State) : exec .upstreamAccessComplete s = .next (upstreamComplete s) := rfl

/-- Settles O25: the access (`accessMade`), the word's end (`wordEnded`) and what waited for it (`afterWord`). -/
theorem upstreamAccessCompletes : Obligations.UpstreamAccessCompletes := by
  intro s h x hwf hp hh returned
  have hret : returned = h.nowReturned x s := by cases x <;> rfl
  have hend (ha : h.accesses = []) := upstreamComplete_finished hp hh ha
  obtain ⟨hin, hlast, hport, hheld, hwaiting⟩ := path_wordEnded h x s
  refine ⟨_, exec_upstreamComplete s, ?port, fun b => ?memory, fun ha => ?unfinished, fun ha => ⟨_, hend ha, hin, ?_⟩,
    fun u => ⟨afterWord_idle, fun e rest => afterWord_event, fun w rest => afterWord_word⟩,
    fun w rest ha hw hhe hwa hd hu hpl => ?plain, fun level ha hhe hwa => ?edge⟩
  case port =>
    by_cases ha : h.accesses = []
    · rw [hend ha]
      exact Eq.trans (keeps_afterWord (wordEnded h x s) .port (by decide)) hport
    · rw [upstreamComplete_unfinished hp hh ha, setPath_path, path_accessMade]
  case memory =>
    show (upstreamComplete s).memRead b = memAfter x s b
    by_cases ha : h.accesses = []
    · rw [hend ha]
      exact (memRead_of_keeps (keeps_afterWord _) b (by decide)).trans (memRead_wordEnded hwf b)
    · rw [upstreamComplete_unfinished hp hh ha]
      exact memRead_accessMade x b hwf
  case unfinished =>
    rw [upstreamComplete_unfinished hp hh ha, hret]
    exact ⟨rfl, ((keeps_accessMade x s).mono (by decide)).setInHand⟩
  case plain =>
    have hk : KeepsAllBut [.port, .inHand, .mem, .lastDone, .taps] s (wordEnded h x s) := by
      have := keeps_wordEnded h x s
      rwa [if_pos hw, List.append_nil] at this
    rw [hend ha, afterWord_plain (hheld.trans hhe) (hwaiting.trans hwa)
      (by rw [hk .device (by decide)]; exact hd)
      ((matchingUnits_of_keeps hk w).trans hu) (passesPlain_of_keeps hk hpl)]
    exact ⟨rfl, rfl⟩
  case edge =>
    rw [hend ha]
    exact afterWord_edge (hheld.trans hhe) (hwaiting.trans hwa)
  rw [hret]
  exact ⟨hlast, tap_wordEnded h x s, unit_wordEnded h x s,
    fun u hu n => marked_awDataAll _ _ _ u hu n, keeps_wordEnded h x s⟩

end Sys2Proof.Machine
end

section
/-!
PROOFS. The trimmed answer of a tap read (O27).
-/
namespace Sys2Proof.Machine

-- one theorem after another, as in the tests: side by side they take more threads than the memory limit allows
set_option Elab.async false

/-- A sample within full scale: what every operand of a trim is (R43, R49). -/
def FullScale (y : Int) : Prop := -8388607 ≤ y ∧ y ≤ 8388607

theorem fullScale_legalSample (v : Word) : FullScale (legalSample v) := by
  unfold FullScale
  rw [legalSample_eq]
  omega

/-- R49: a blend lies between its operands' bounds. -/
theorem fullScale_blend {w : Nat} {x y : Int} (hw : w ≤ 256) (hx : FullScale x) (hy : FullScale y) :
    FullScale (blend w x y) := by
  obtain ⟨hx1, hx2⟩ := hx
  obtain ⟨hy1, hy2⟩ := hy
  have hw' : (w : Int) ≤ 256 := by exact_mod_cast hw
  have hw0 : (0 : Int) ≤ w := Int.natCast_nonneg w
  have hlo : -8388607 * 256 ≤ x * (256 - w) + y * w := by nlinarith
  have hhi : x * (256 - w) + y * w ≤ 8388607 * 256 := by nlinarith
  unfold FullScale blend
  rw [Int.fdiv_eq_ediv_of_nonneg _ (by decide)]
  omega

theorem toInt_trimAnswer (trim : Nat) (y : Int) :
    (trimAnswer trim y).toInt = min 8388607 (max (-8388607) (trimmed trim y)) := by
  have h : clampLegal (trimmed trim y) = min 8388607 (max (-8388607) (trimmed trim y)) :=
    clampTo_eq (trimmed trim y) (by decide)
  unfold trimAnswer ofSample
  rw [h]
  exact BitVec.toInt_ofInt_eq_self (by decide) (by omega) (by omega)

theorem trimAnswer_ne_void (trim : Nat) (y : Int) : trimAnswer trim y ≠ voidCode := by
  intro h
  have hv : voidCode.toInt = -8388608 := by decide
  have ht := toInt_trimAnswer trim y
  rw [h, hv] at ht
  omega

/-- R56: a trim of 1,024 is none. -/
theorem trimmed_unit (y : Int) : trimmed 1024 y = y := by
  unfold trimmed
  exact Int.mul_fdiv_cancel y (by decide)

/-- R56: a trim below 1,024 never saturates. -/
theorem fullScale_trimmed {trim : Nat} {y : Int} (ht : trim ≤ 1024) (hy : FullScale y) : FullScale (trimmed trim y) := by
  obtain ⟨h1, h2⟩ := hy
  have ht' : (trim : Int) ≤ 1024 := by exact_mod_cast ht
  have ht0 : (0 : Int) ≤ trim := Int.natCast_nonneg trim
  have hlo : -8388607 * 1024 ≤ y * trim := by nlinarith
  have hhi : y * trim ≤ 8388607 * 1024 := by nlinarith
  unfold FullScale trimmed
  rw [Int.fdiv_eq_ediv_of_nonneg _ (by decide)]
  omega

/-- The answer and the saturation of a tap read whose last word memory has returned. -/
theorem tapAnswer_of {s : State} {h : InHand} {a : Addr} {z : Fin 48} {trim : Nat} {y : Int}
    (hform : (h.form = .steady z trim ∧ h.returned = [] ∧ y = legalSample (s.memRead a)) ∨
      (∃ w v, h.form = .blend z w trim ∧ w ≤ 256 ∧ h.returned = [v] ∧
        y = blend w (legalSample v) (legalSample (s.memRead a)))) :
    formAnswer h.form (h.nowReturned (.read a) s) = some (trimAnswer trim y) ∧
      saturatedZone h.form (h.nowReturned (.read a) s) =
        (if trimmed trim y < -8388607 ∨ 8388607 < trimmed trim y then some z else none) ∧ FullScale y := by
  unfold InHand.nowReturned accessReturns
  obtain ⟨hf, hr, rfl⟩ | ⟨w, v, hf, hw, hr, rfl⟩ := hform
  case inl =>
    rw [hf, hr]
    exact ⟨rfl, saturatedZone_steady z trim _, fullScale_legalSample _⟩
  case inr =>
    rw [hf, hr]
    exact ⟨rfl, saturatedZone_blend z w trim v _,
      fullScale_blend hw (fullScale_legalSample _) (fullScale_legalSample _)⟩

/-- Settles O27: the word's end forms the answer (`tapAnswer_of`); the rest is arithmetic of a trim. -/
theorem tapAnswersTrimmed : Obligations.TapAnswersTrimmed := by
  intro s h a z trim y hp hh ha hheld hwaiting htrim hform
  obtain ⟨hanswer, hsat, hy⟩ := tapAnswer_of hform
  obtain ⟨-, hlast, -, heldEnd, waitingEnd⟩ := path_wordEnded h (.read a) s
  have hend : upstreamComplete s = wordEnded h (.read a) s :=
    (upstreamComplete_finished hp hh ha).trans (afterWord_idle (heldEnd.trans hheld) (waitingEnd.trans hwaiting))
  have hx := toInt_trimAnswer trim y
  have hcount : ((wordEnded h (.read a) s).tap z).saturations =
      if 8388607 < trimmed trim y ∨ trimmed trim y < -8388607 then min 65535 ((s.tap z).saturations + 1)
      else (s.tap z).saturations := by
    rw [tap_wordEnded, hsat]
    by_cases hs : trimmed trim y < -8388607 ∨ 8388607 < trimmed trim y
    · rw [if_pos hs, if_pos rfl, if_pos hs.symm]
    · rw [if_neg hs, if_neg (by simp), if_neg fun h => hs h.symm]
  have silent (ht : trim ≤ 1024) : ((wordEnded h (.read a) s).tap z).saturations = (s.tap z).saturations := by
    obtain ⟨h1, h2⟩ := fullScale_trimmed ht hy
    rw [hcount, if_neg (by omega)]
  refine ⟨_, trimAnswer trim y, exec_upstreamComplete s, ?_⟩
  rw [hend]
  refine ⟨hlast.trans (by rw [hanswer]), hx, trimAnswer_ne_void trim y, hcount, fun h1 => ⟨?unit, silent h1.le⟩,
    fun h1 => silent h1.le, fun h0 => ?zero, fun h1 hm => ?rounded⟩
  case unit =>
    obtain ⟨hy1, hy2⟩ := hy
    rw [hx, h1, trimmed_unit]
    omega
  case zero =>
    subst h0
    unfold trimAnswer trimmed
    rw [Nat.cast_zero, mul_zero]
    rfl
  case rounded =>
    rw [hx, h1, hm]
    rfl

end Sys2Proof.Machine
end

section
/-!
PROOFS. The regions of the address space (chapter 5): where the straps and a checked plan place them (O22).
-/
namespace Sys2Proof.Machine

-- one theorem after another, as in the tests: side by side they take more threads than the memory limit allows
set_option Elab.async false

/-! ### The plan area (R91) -/

theorem planBase_eq (straps : BitVec 6) : planBase straps = straps.toNat * 1048576 := Nat.mul_comm _ _

theorem planOffset_eq_some (straps : BitVec 6) (a : Addr) (off : Nat) :
    planOffset straps a = some off ↔ a.toNat = straps.toNat * 1048576 + off ∧ off ≤ 4095 := by
  have hb := planBase_eq straps
  unfold planOffset
  rw [Option.ite_none_right_eq_some, Option.some.injEq]
  omega

theorem planOffset_eq_none (straps : BitVec 6) (a : Addr) :
    planOffset straps a = none ↔ ¬ (planBase straps ≤ a.toNat ∧ a.toNat < planBase straps + 4096) := by
  unfold planOffset
  simp

/-! ### The regions of a plan by themselves (R39, R64, 1.1) -/

theorem apertureAt_eq_some {p : Plan} (hF : 0 < p.frameLen) (a : Addr) (z : Fin 48) (j : Nat) :
    p.apertureAt a = some (z, j) ↔
      z.val < p.zoneCount ∧ j < p.frameLen ∧ a.toNat = p.tapBase + p.frameLen * z.val + j := by
  have hdiv := Nat.div_add_mod (a.toNat - p.tapBase) p.frameLen
  have hmod := Nat.mod_lt (a.toNat - p.tapBase) hF
  unfold Plan.apertureAt
  dsimp only
  constructor
  · intro h
    obtain ⟨hc, h⟩ := Option.dite_none_right_eq_some.1 h
    obtain ⟨rfl, rfl⟩ := Prod.mk.inj (Option.some.inj h)
    obtain ⟨hbase, hz, -⟩ := hc
    exact ⟨hz, hmod, by simp only; omega⟩
  · rintro ⟨hz, hj, ha⟩
    have ho : a.toNat - p.tapBase = j + p.frameLen * z.val := by omega
    have hq : (a.toNat - p.tapBase) / p.frameLen = z.val := by
      rw [ho, Nat.add_mul_div_left _ _ hF, Nat.div_eq_of_lt hj, Nat.zero_add]
    have hr : (a.toNat - p.tapBase) % p.frameLen = j := by
      rw [ho, Nat.add_mul_mod_self_left, Nat.mod_eq_of_lt hj]
    rw [dif_pos ⟨by omega, by rw [hq]; exact hz, by rw [hq]; exact z.isLt⟩]
    simp only [hq, hr]

theorem bufferAt_eq_some {p : Plan} (hF : 0 < p.frameLen) (a : Addr) (z : Fin 48) (half : Fin 2) (j : Nat) :
    p.bufferAt a = some (z, half, j) ↔ z.val < p.zoneCount ∧ j < p.frameLen ∧
      a.toNat = p.zoneBase + 2 * p.frameLen * z.val + p.frameLen * half.val + j := by
  have hdiv := Nat.div_add_mod (a.toNat - p.zoneBase) (2 * p.frameLen)
  have hmod := Nat.mod_lt (a.toNat - p.zoneBase) (show 0 < 2 * p.frameLen by omega)
  unfold Plan.bufferAt
  dsimp only
  constructor
  · intro h
    obtain ⟨hc, h⟩ := Option.dite_none_right_eq_some.1 h
    obtain ⟨rfl, h⟩ := Prod.mk.inj (Option.some.inj h)
    obtain ⟨hbase, hz, -⟩ := hc
    split at h
    case isTrue hr =>
      obtain ⟨rfl, rfl⟩ := Prod.mk.inj h
      exact ⟨hz, hr, by simp; omega⟩
    case isFalse hr =>
      obtain ⟨rfl, rfl⟩ := Prod.mk.inj h
      exact ⟨hz, by omega, by simp; omega⟩
  · rintro ⟨hz, hj, ha⟩
    have hlt : p.frameLen * half.val + j < 2 * p.frameLen := by
      have := half.isLt
      have h01 : half.val = 0 ∨ half.val = 1 := by omega
      obtain h | h := h01 <;> rw [h] <;> omega
    have ho : a.toNat - p.zoneBase = (p.frameLen * half.val + j) + 2 * p.frameLen * z.val := by omega
    have hq : (a.toNat - p.zoneBase) / (2 * p.frameLen) = z.val := by
      rw [ho, Nat.add_mul_div_left _ _ (by omega), Nat.div_eq_of_lt hlt, Nat.zero_add]
    have hr : (a.toNat - p.zoneBase) % (2 * p.frameLen) = p.frameLen * half.val + j := by
      rw [ho, Nat.add_mul_mod_self_left, Nat.mod_eq_of_lt hlt]
    rw [dif_pos ⟨by omega, by rw [hq]; exact hz, by rw [hq]; exact z.isLt⟩]
    simp only [hq, hr]
    have h01 : half = 0 ∨ half = 1 := by fin_cases half <;> simp
    obtain rfl | rfl := h01
    · simp [hj]
    · simp

/-! ### Regions that do not overlap (R108) -/

theorem PlacedRegion.holds.apart {r q : PlacedRegion} {n : Nat} (h : r.holds n) (hq : q.holds n) :
    r.overlaps q = true := by
  unfold PlacedRegion.holds at h hq
  unfold PlacedRegion.overlaps
  simp only [Bool.and_eq_true, decide_eq_true_eq]
  omega

/-- The regions of a plan as R108 places them. -/
def Plan.tapRegion (p : Plan) : PlacedRegion := ⟨1029, p.tapBase, p.zoneCount * p.frameLen⟩

def Plan.bufferRegion (p : Plan) : PlacedRegion := ⟨1030, p.zoneBase, p.zoneCount * (2 * p.frameLen)⟩

def Plan.lineRegion (p : Plan) (i : Nat) : PlacedRegion := ⟨lineOff i 0, p.lineBase i, p.lineLen i⟩

def planRegion (straps : BitVec 6) : PlacedRegion := ⟨0, planBase straps, 4096⟩

theorem regions_eq (p : Plan) :
    p.regions = [p.tapRegion, p.bufferRegion] ++ (List.range p.lineCount).map p.lineRegion := rfl

/-- R108: what a pass of the checks says of an address. -/
structure RegionsApart (straps : BitVec 6) (p : Plan) (n : Nat) : Prop where
  plan : ∀ r ∈ p.regions, r.holds n → ¬ (planRegion straps).holds n
  buffer : p.bufferRegion.holds n → ¬ p.tapRegion.holds n
  line : ∀ i, i < p.lineCount → (p.lineRegion i).holds n → ¬ p.tapRegion.holds n ∧ ¬ p.bufferRegion.holds n
  lines : ∀ i k, i < p.lineCount → k < p.lineCount → (p.lineRegion i).holds n → (p.lineRegion k).holds n → i = k

theorem regionsApart_of_pass {straps : BitVec 6} {p : Plan} (h : planResult straps none p = .pass) (n : Nat) :
    RegionsApart straps p n := by
  obtain ⟨hplan, hpairs⟩ := firstOverlap_none _ _ (regionFailure_of_pass h)
  rw [regions_eq] at hpairs
  obtain ⟨hfirst, hlines, hacross⟩ := List.pairwise_append.1 hpairs
  have apart {r q : PlacedRegion} (hr : r.holds n) (ho : r.overlaps q = false) : ¬ q.holds n := fun hq =>
    absurd (hr.apart hq) (by simp [ho])
  have hmem (i : Nat) (hi : i < p.lineCount) : p.lineRegion i ∈ (List.range p.lineCount).map p.lineRegion :=
    List.mem_map_of_mem (List.mem_range.2 hi)
  have hbelow (i k : Nat) (hik : i < k) (hk : k < p.lineCount) : (p.lineRegion k).overlaps (p.lineRegion i) = false := by
    have hord := List.pairwise_map.1 hlines
    have h := List.pairwise_iff_getElem.1 hord i k (by rw [List.length_range]; omega)
      (by rw [List.length_range]; exact hk) hik
    rwa [List.getElem_range, List.getElem_range] at h
  refine ⟨fun r hr hn => apart hn (hplan r hr _ (by simp [planRegion])), fun hn => apart hn ?_, fun i hi hn => ⟨?_, ?_⟩,
    fun i k hi hk hni hnk => ?_⟩
  · simpa using hfirst
  · exact apart hn (hacross _ (by simp) _ (hmem i hi))
  · exact apart hn (hacross _ (by simp) _ (hmem i hi))
  · obtain hlt | heq | hgt := Nat.lt_trichotomy i k
    · exact absurd hni (apart hnk (hbelow i k hlt hk))
    · exact heq
    · exact absurd hnk (apart hni (hbelow k i hgt hi))

theorem lineAt_eq_some {straps : BitVec 6} {p : Plan} {a : Addr} (h : RegionsApart straps p a.toNat) (l : Fin 24)
    (o : Nat) : p.lineAt a = some (l, o) ↔ l.val < p.lineCount ∧ o < p.lineLen l.val ∧ a.toNat = p.lineBase l.val + o := by
  unfold Plan.lineAt
  constructor
  · intro hl
    obtain ⟨k, hk, he⟩ := Option.map_eq_some_iff.1 hl
    obtain ⟨rfl, rfl⟩ := Prod.mk.inj he
    have hin : k.val < p.lineCount := by
      have := List.mem_of_find?_eq_some hk
      simpa using this
    have hat := List.find?_some hk
    simp only [decide_eq_true_eq] at hat
    exact ⟨hin, by omega, by omega⟩
  · rintro ⟨hl, ho, ha⟩
    have hold : (p.lineRegion l.val).holds a.toNat := ⟨by simp [Plan.lineRegion]; omega, by simp [Plan.lineRegion]; omega⟩
    have hsome : (p.linesInUse.find? fun l => p.lineBase l.val ≤ a.toNat ∧ a.toNat < p.lineBase l.val + p.lineLen l.val)
        = some l := by
      cases hf : p.linesInUse.find? fun l => p.lineBase l.val ≤ a.toNat ∧ a.toNat < p.lineBase l.val + p.lineLen l.val
      case none =>
        have := List.find?_eq_none.1 hf l (by simpa using hl)
        simp only [decide_eq_true_eq] at this
        omega
      case some k =>
        have hin : k.val < p.lineCount := by simpa using List.mem_of_find?_eq_some hf
        have hat := List.find?_some hf
        simp only [decide_eq_true_eq] at hat
        exact congrArg some (Fin.ext (h.lines _ _ hin hl hat hold))
    rw [hsome]
    simp only [Option.map_some, Option.some.injEq, Prod.mk.injEq, true_and]
    omega

/-! ### The region of an address (R90) -/

theorem region_eq_planArea (s : State) (a : Addr) (off : Nat) :
    s.region a = .planArea off ↔ planOffset s.path.straps a = some off := by
  unfold State.region regionOf
  cases planOffset s.path.straps a with
  | some o => simp
  | none =>
    simp only [reduceCtorEq, iff_false]
    repeat' split
    all_goals simp

theorem region_cold {s : State} {a : Addr} (hl : s.loader.live = none) (ho : planOffset s.path.straps a = none) :
    s.region a = .noRegion := by
  unfold State.region regionOf
  rw [ho, hl]

section
variable {s : State} {p : Plan} {a : Addr} (hl : s.loader.live = some p)
include hl

theorem region_eq_aperture (z : Fin 48) (j : Nat) : s.region a = .aperture z j ↔
    planOffset s.path.straps a = none ∧ p.apertureAt a = some (z, j) := by
  unfold State.region regionOf
  rw [hl]
  cases planOffset s.path.straps a with
  | some off => simp
  | none =>
    dsimp only
    cases p.apertureAt a with
    | some zj => simp [Prod.ext_iff]
    | none =>
      simp only [reduceCtorEq, and_false, iff_false]
      repeat' split
      all_goals simp

theorem region_eq_zoneBuffer (z : Fin 48) (half : Fin 2) (j : Nat) : s.region a = .zoneBuffer z half j ↔
    planOffset s.path.straps a = none ∧ p.apertureAt a = none ∧ p.bufferAt a = some (z, half, j) := by
  unfold State.region regionOf
  rw [hl]
  cases planOffset s.path.straps a with
  | some off => simp
  | none =>
    dsimp only
    cases p.apertureAt a with
    | some zj => simp
    | none =>
      dsimp only
      cases p.bufferAt a with
      | some zhj => simp [Prod.ext_iff]
      | none =>
        simp only [reduceCtorEq, and_false, iff_false]
        split <;> simp

theorem region_eq_lineMemory (l : Fin 24) (o : Nat) : s.region a = .lineMemory l o ↔
    planOffset s.path.straps a = none ∧ p.apertureAt a = none ∧ p.bufferAt a = none ∧ p.lineAt a = some (l, o) := by
  unfold State.region regionOf
  rw [hl]
  cases planOffset s.path.straps a with
  | some off => simp
  | none =>
    dsimp only
    cases p.apertureAt a with
    | some zj => simp
    | none =>
      dsimp only
      cases p.bufferAt a with
      | some zhj => simp
      | none =>
        dsimp only
        cases p.lineAt a with
        | some lo => simp [Prod.ext_iff]
        | none => simp

end

/-! ### A checked plan's regions (R90, R108) -/

theorem frameLen_pos_of_pass {straps : BitVec 6} {p : Plan} (h : planResult straps none p = .pass) : 0 < p.frameLen := by
  have hF := (fieldsPass_of p (fieldFailure_of_pass h)).header _ (List.mem_cons_self ..)
  simp only [List.contains_eq_mem, List.mem_cons, List.not_mem_nil, or_false, decide_eq_true_eq] at hF
  omega

section
variable {straps : BitVec 6} {p : Plan} {a : Addr}

theorem tapRegion_holds (hF : 0 < p.frameLen) {z : Fin 48} {j : Nat} (h : p.apertureAt a = some (z, j)) :
    p.tapRegion.holds a.toNat := by
  obtain ⟨hz, hj, ha⟩ := (apertureAt_eq_some hF a z j).1 h
  have : (z.val + 1) * p.frameLen ≤ p.zoneCount * p.frameLen := Nat.mul_le_mul_right _ hz
  rw [Nat.succ_mul, Nat.mul_comm] at this
  exact ⟨by show p.tapBase ≤ _; omega, by show _ < p.tapBase + p.zoneCount * p.frameLen; omega⟩

theorem bufferRegion_holds (hF : 0 < p.frameLen) {z : Fin 48} {half : Fin 2} {j : Nat}
    (h : p.bufferAt a = some (z, half, j)) : p.bufferRegion.holds a.toNat := by
  obtain ⟨hz, hj, ha⟩ := (bufferAt_eq_some hF a z half j).1 h
  have hzone : (z.val + 1) * (2 * p.frameLen) ≤ p.zoneCount * (2 * p.frameLen) := Nat.mul_le_mul_right _ hz
  have hhalf : p.frameLen * half.val ≤ p.frameLen * 1 := Nat.mul_le_mul_left _ (by omega)
  rw [Nat.succ_mul, Nat.mul_comm] at hzone
  exact ⟨by show p.zoneBase ≤ _; omega, by show _ < p.zoneBase + p.zoneCount * (2 * p.frameLen); omega⟩

theorem lineRegion_holds (h : RegionsApart straps p a.toNat) {l : Fin 24} {o : Nat} (hl : p.lineAt a = some (l, o)) :
    l.val < p.lineCount ∧ (p.lineRegion l.val).holds a.toNat := by
  obtain ⟨hlt, ho, ha⟩ := (lineAt_eq_some h l o).1 hl
  exact ⟨hlt, by show p.lineBase l.val ≤ _; omega, by show _ < p.lineBase l.val + p.lineLen l.val; omega⟩

/-- R108: the plan area holds no address of the plan's regions. -/
theorem planOffset_apart (h : RegionsApart straps p a.toNat) {r : PlacedRegion} (hr : r ∈ p.regions)
    (ha : r.holds a.toNat) : planOffset straps a = none :=
  (planOffset_eq_none straps a).2 (h.plan r hr ha)

theorem apertureAt_none (hF : 0 < p.frameLen) (h : ¬ p.tapRegion.holds a.toNat) : p.apertureAt a = none := by
  cases ha : p.apertureAt a with
  | none => rfl
  | some zj => exact absurd (tapRegion_holds hF ha) h

theorem bufferAt_none (hF : 0 < p.frameLen) (h : ¬ p.bufferRegion.holds a.toNat) : p.bufferAt a = none := by
  cases ha : p.bufferAt a with
  | none => rfl
  | some zhj => exact absurd (bufferRegion_holds hF ha) h

end

/-! ### The straps (R91, R101) -/

theorem straps_endReset (straps : BitVec 6) (y : Bool) {s : State} (h : s.path.resetHeld = true) :
    (endReset straps y s).path.straps = straps := by
  unfold endReset
  rw [if_pos h]
  simp

/-- R91: the straps are held from the end of a reset to the end of the next. -/
theorem straps_exec {s t : State} {c : Instr} (h : exec c s = .next t) :
    t.path.straps = s.path.straps ∨ (s.path.resetHeld = true ∧ ∃ y, c = .resetEnd t.path.straps y) := by
  by_cases hc : isRunning c = true
  · obtain ⟨u, hu, hk⟩ := exec_running c s hc
    obtain rfl : u = t := Host.Outcome.next.inj (hu.symm.trans h)
    exact .inl (hk .straps (by decide))
  · cases c
    case powerOnReset =>
      obtain rfl := Host.Outcome.next.inj h
      exact .inl rfl
    case resetPinAsserted =>
      obtain rfl := Host.Outcome.next.inj h
      exact .inl rfl
    case resetEnd straps y =>
      obtain rfl := Host.Outcome.next.inj h
      by_cases hr : s.path.resetHeld = true
      · exact .inr ⟨hr, y, by rw [straps_endReset _ _ hr]⟩
      · exact .inl (by unfold endReset; rw [if_neg hr])
    all_goals exact absurd rfl hc

/-- Settles O22: the plan area by its base (`planOffset_eq_some`), the other regions by what the checks of a plan say of
their overlaps (`regionsApart_of_pass`). -/
theorem planAreaPlacedByStraps : Obligations.PlanAreaPlacedByStraps := by
  refine ⟨planOffset_eq_some, planAddr_toNat, by decide, fun s t c h => straps_exec h,
    fun s straps y h => ⟨_, exec_resetEnd straps y s, straps_endReset straps y h⟩,
    fun s a => ⟨region_eq_planArea s a, region_cold⟩, fun s p a hp => ?planned⟩
  obtain ⟨hl, hpass⟩ := hp
  have hF := frameLen_pos_of_pass hpass
  have hap := regionsApart_of_pass hpass a.toNat
  refine ⟨fun z j => ?aperture, fun z half j => ?buffer, fun l o => ?line⟩
  case aperture =>
    rw [region_eq_aperture hl, ← apertureAt_eq_some hF]
    exact ⟨fun h => h.2, fun h => ⟨planOffset_apart hap (by simp [regions_eq]) (tapRegion_holds hF h), h⟩⟩
  case buffer =>
    rw [region_eq_zoneBuffer hl, ← bufferAt_eq_some hF]
    refine ⟨fun h => h.2.2, fun h => ?_⟩
    have hold := bufferRegion_holds hF h
    exact ⟨planOffset_apart hap (by simp [regions_eq]) hold, apertureAt_none hF (hap.buffer hold), h⟩
  case line =>
    rw [region_eq_lineMemory hl, ← lineAt_eq_some hap]
    refine ⟨fun h => h.2.2.2, fun h => ?_⟩
    obtain ⟨hlt, hold⟩ := lineRegion_holds hap h
    obtain ⟨htap, hbuffer⟩ := hap.line _ hlt hold
    refine ⟨planOffset_apart hap ?_ hold, apertureAt_none hF htap, bufferAt_none hF hbuffer, h⟩
    rw [regions_eq]
    exact List.mem_append_right _ (List.mem_map_of_mem (List.mem_range.2 hlt))

end Sys2Proof.Machine
end

section
/-!
PROOFS. The plan loader (chapter 6): its reads (O30) and the end of its checks (O31, O32).
-/
namespace Sys2Proof.Machine

-- one theorem after another, as in the tests: side by side they take more threads than the memory limit allows
set_option Elab.async false

/-! ### A read completes (R111, R119) -/

/-- R98: between words PL takes the end of its read with the word the DRAM holds. -/
theorem exec_planReadComplete {s : State} {off : Nat} (hi : s.path.inHand = none)
    (hp : s.path.port = some (.own (.planRead off))) :
    exec .planReadComplete s = .next (plReadDone (s.memRead (planAddr s.path.straps off)) (freePort s)) :=
  congrArg Host.Outcome.next (ownComplete_between hi hp rfl)

/-- A state whose port is free and whose loader has changed in these fields. -/
theorem keeps_freePort (s : State) : KeepsAllBut [.port] s (freePort s) := fun q hq => by
  cases q
  case port => exact absurd (by decide) hq
  all_goals rfl

theorem plReadDone_stale_waiting {s : State} (v : Word) (hs : s.loader.staleRead = true)
    (hr : s.loader.state = .reading) : plReadDone v s = plIssueRead (s.setLoader { s.loader with staleRead := false }) :=
  (if_pos hs).trans (if_pos hr)

theorem plReadDone_stale {s : State} (v : Word) (hs : s.loader.staleRead = true) (hr : s.loader.state ≠ .reading) :
    plReadDone v s = s.setLoader { s.loader with staleRead := false } :=
  (if_pos hs).trans (if_neg hr)

theorem plReadDone_received {s : State} (v : Word) (hs : s.loader.staleRead = false) (hr : s.loader.state = .reading)
    (hf : s.loader.readInFlight = true) : plReadDone v s = plReceive v s :=
  (if_neg (by simp [hs])).trans (if_pos ⟨hr, hf⟩)

theorem plReadDone_idle {s : State} (v : Word) (hs : s.loader.staleRead = false) (hr : s.loader.state ≠ .reading) :
    plReadDone v s = s :=
  (if_neg (by simp [hs])).trans (if_neg fun h => hr h.1)

theorem plReceive_more {s : State} (v : Word) (h : s.loader.cursor < 1862) :
    plReceive v s = plIssueRead (s.setLoader (s.loader.received v)) :=
  if_pos (show s.loader.cursor + 1 ≤ 1862 by omega)

theorem plReceive_last {s : State} (v : Word) (h : 1862 ≤ s.loader.cursor) :
    plReceive v s = (s.setLoader { s.loader.received v with state := .checking }).statusChange 17 :=
  if_neg (show ¬ s.loader.cursor + 1 ≤ 1862 by omega)

/-- R111: issuing a read takes the cursor's word; `l` is what PL's state has become besides. -/
theorem keeps_plIssueRead {c : List Part} {s : State} {l : Loader} (h : KeepsAllBut c s (s.setLoader l))
    (hf : Part.readInFlight ∈ c := by decide) (ho : Part.ownPL ∈ c := by decide) :
    KeepsAllBut c s (plIssueRead (s.setLoader l)) :=
  h.trans fun q hq => by
    cases q
    case readInFlight => exact absurd hf hq
    case ownPL => exact absurd ho hq
    all_goals rfl

/-- R111: what PL's state becomes with a word received. -/
theorem keeps_received (s : State) (v : Word) :
    KeepsAllBut [.loadWords, .sum, .cursor, .readInFlight] s (s.setLoader (s.loader.received v)) := fun q hq => by
  cases q
  case loadWords => exact absurd (by decide) hq
  case sum => exact absurd (by decide) hq
  case cursor => exact absurd (by decide) hq
  case readInFlight => exact absurd (by decide) hq
  all_goals rfl

theorem keeps_checking (s : State) (v : Word) :
    KeepsAllBut [.loadWords, .sum, .cursor, .readInFlight, .loadState] s
      (s.setLoader { s.loader.received v with state := .checking }) :=
  ((keeps_received s v).mono (by decide)).trans fun q hq => by
    cases q
    case loadState => exact absurd (by decide) hq
    all_goals rfl

theorem keeps_notStale (s : State) : KeepsAllBut [.staleRead] s (s.setLoader { s.loader with staleRead := false }) :=
  fun q hq => by
    cases q
    case staleRead => exact absurd (by decide) hq
    all_goals rfl

/-- R111: a word received with the read in flight leaves the next read in flight. -/
theorem keeps_nextRead {s : State} (v : Word) (hf : s.loader.readInFlight = true) :
    KeepsAllBut [.loadWords, .sum, .cursor, .ownPL] s (plIssueRead (s.setLoader (s.loader.received v))) := by
  have h := keeps_plIssueRead (c := [.loadWords, .sum, .cursor, .readInFlight, .ownPL])
    ((keeps_received s v).mono (by decide))
  intro q hq
  cases q
  case readInFlight => exact hf.symm
  all_goals first
    | exact h _ (by decide)
    | exact absurd (by decide) hq

/-- Settles O30: a read that comes back is stale, or belongs to a load, or to none (`plReadDone`). -/
theorem planReadCompletes : Obligations.PlanReadCompletes := by
  intro s off hi hp v l
  have hfree := keeps_freePort s
  refine ⟨_, exec_planReadComplete hi hp, ?port, fun hs hr => ?staleWaiting, fun hs hr => ?stale, fun hs hr hf => ?load,
    fun hs hr => ?none⟩
  case port =>
    have hdone := (KeepsAllBut.refl (c := takeParts) (freePort s)).plReadDone v
    exact hdone .port (by decide)
  case staleWaiting =>
    rw [plReadDone_stale_waiting (s := freePort s) v hs hr]
    exact ⟨rfl, rfl, (hfree.mono (by decide)).trans (keeps_plIssueRead ((keeps_notStale _).mono (by decide)))⟩
  case stale =>
    rw [plReadDone_stale (s := freePort s) v hs hr]
    exact ⟨rfl, (hfree.mono (by decide)).trans ((keeps_notStale _).mono (by decide))⟩
  case load =>
    rw [plReadDone_received (s := freePort s) v hs hr hf]
    by_cases hc : l.cursor < 1862
    · rw [plReceive_more (s := freePort s) v hc]
      have hnext : KeepsAllBut [.port, .loadWords, .sum, .cursor, .ownPL] s
          (plIssueRead ((freePort s).setLoader ((freePort s).loader.received v))) :=
        (hfree.mono (by decide)).trans ((keeps_nextRead (s := freePort s) v hf).mono (by decide))
      exact ⟨rfl, rfl, rfl, fun _ => ⟨hr, rfl, rfl, hnext⟩, fun h => absurd hc (Nat.not_lt.2 h)⟩
    · rw [plReceive_last (s := freePort s) v (Nat.not_lt.1 hc)]
      refine ⟨?_, ?_, ?_, fun h => absurd h hc, fun _ => ⟨?_, ?_, marked_statusChange _ _, ?_⟩⟩
      · rw [statusChange_loader]; rfl
      · rw [statusChange_loader]; rfl
      · rw [statusChange_loader]; rfl
      · rw [statusChange_loader]; rfl
      · rw [statusChange_loader]; rfl
      · exact ((hfree.mono (by decide)).trans ((keeps_checking _ v).mono (by decide))).statusChange
  case none =>
    rw [plReadDone_idle (s := freePort s) v hs hr]
    exact hfree

/-! ### The end of the checks (R113 to R116) -/

theorem exec_endOfChecks {s : State} (h : s.betweenWords) : exec .endOfChecks s = .next (plEndOfChecks s) :=
  congrArg Host.Outcome.next (arrive_between h .endOfChecks)

/-- R113, R114: what a load refused leaves. -/
theorem rejected_plReject (why : LoadOutcome) (a b : Word) (s : State) :
    (plReject why a b s).loader = { s.loader with state := .idle, loadWords := [], torn := none, outcome := why } ∧
      Reported s (plReject why a b s) .planRejected (loadOutcomeCode why) a b ∧ Marked (plReject why a b s) 17 ∧
      KeepsAllBut ([.loadState, .loadWords, .torn, .outcome] ++ reportParts) s (plReject why a b s) := by
  have hloader : KeepsAllBut [.loadState, .loadWords, .torn, .outcome] s (s.setLoader
      { s.loader with state := .idle, loadWords := [], torn := none, outcome := why }) := fun q hq => by
    cases q
    case loadState => exact absurd (by decide) hq
    case loadWords => exact absurd (by decide) hq
    case torn => exact absurd (by decide) hq
    case outcome => exact absurd (by decide) hq
    all_goals rfl
  unfold plReject
  refine ⟨by simp, Reported.statusChange (reported_request _ _ _ _ _ _ rfl rfl) _, marked_statusChange _ _, ?_⟩
  exact (hloader.mono (by decide)).request.statusChange

theorem checkLoad_words {s : State} (ht : s.loader.torn = none) (h : s.loader.sum = Plan.planSum s.loader.loadWords) :
    checkLoad s.path.straps s.loader = planResult s.path.straps s.loader.live s.loader.loadWords := by
  unfold checkLoad
  rw [ht]
  exact if_pos h

section
variable {s : State} (hs : s.loader.state = .checking)
include hs

theorem plEndOfChecks_torn {o c : Nat} (h : s.loader.torn = some (o, c)) :
    plEndOfChecks s = plReject .torn (word o) (word c) s := by
  unfold plEndOfChecks checkLoad
  rw [if_pos hs, h]

theorem plEndOfChecks_checksum (ht : s.loader.torn = none)
    (h : s.loader.sum ≠ Plan.planSum s.loader.loadWords) :
    plEndOfChecks s = plReject .checksum s.loader.sum (Plan.planSum s.loader.loadWords) s := by
  unfold plEndOfChecks checkLoad
  rw [if_pos hs, ht]
  dsimp only
  rw [if_neg h]

theorem plEndOfChecks_invalid {o : Nat} (h : checkLoad s.path.straps s.loader = .invalid o) :
    plEndOfChecks s = plReject .invalid (word o) (Plan.word s.loader.loadWords o) s := by
  unfold plEndOfChecks
  rw [if_pos hs, h]

theorem plEndOfChecks_layout {o : Nat} {q : Plan} (h : checkLoad s.path.straps s.loader = .layout o)
    (hl : s.loader.live = some q) : plEndOfChecks s = plReject .layout (word o) (q.word o) s := by
  unfold plEndOfChecks
  rw [if_pos hs, h]
  dsimp only
  rw [hl]
  rfl

theorem plEndOfChecks_pass (h : checkLoad s.path.straps s.loader = .pass) : plEndOfChecks s = plPass s := by
  unfold plEndOfChecks
  rw [if_pos hs, h]

end

theorem planResult_fields {straps : BitVec 6} {live : Option Plan} {p : Plan} {o : Nat} (h : fieldFailure p = some o) :
    planResult straps live p = .invalid o := by
  unfold planResult
  rw [h]

theorem planResult_regions {straps : BitVec 6} {live : Option Plan} {p : Plan} {o : Nat} (hf : fieldFailure p = none)
    (h : regionFailure straps p = some o) : planResult straps live p = .invalid o := by
  unfold planResult
  rw [hf, h]

theorem planResult_layout {straps : BitVec 6} {live p : Plan} {o : Nat} (hf : fieldFailure p = none)
    (hr : regionFailure straps p = none) (h : layoutFailure live p = some o) :
    planResult straps (some live) p = .layout o := by
  unfold planResult
  rw [hf, hr]
  dsimp only [Option.bind_some]
  rw [h]

/-- Settles O31: the check that fails decides with what PL refuses the load. -/
theorem failedChecksRejectTheLoad : Obligations.FailedChecksRejectTheLoad := by
  intro s hb hs words rejected
  have refuse {why : LoadOutcome} {a b : Word} (h : plEndOfChecks s = plReject why a b s) : rejected why a b :=
    ⟨_, exec_endOfChecks hb, by rw [h]; exact rejected_plReject why a b s⟩
  refine ⟨fun o c h => refuse (plEndOfChecks_torn hs h), fun ht h => refuse (plEndOfChecks_checksum hs ht h),
    fun ht h => ?_⟩
  have hcheck := checkLoad_words ht h
  refine ⟨fun o hf => ?fields, fun hf => ⟨fun o hr => ?regions, fun live o hr hl ho => ?layout⟩⟩
  case fields => exact refuse (plEndOfChecks_invalid hs (hcheck.trans (planResult_fields hf)))
  case regions => exact refuse (plEndOfChecks_invalid hs (hcheck.trans (planResult_regions hf hr)))
  case layout =>
    rw [hl] at hcheck
    exact refuse (plEndOfChecks_layout hs (hcheck.trans (planResult_layout hf hr ho)) hl)

/-! ### An installation (R115) -/

theorem keeps_plInstalled (p : Plan) (s : State) :
    KeepsAllBut [.loadState, .loadWords, .live, .outcome, .device, .lines, .areas, .taps, .guards] s
      (plInstalled p s) := fun q hq => by
  cases q
  case loadState => exact absurd (by decide) hq
  case loadWords => exact absurd (by decide) hq
  case live => exact absurd (by decide) hq
  case outcome => exact absurd (by decide) hq
  case device => exact absurd (by decide) hq
  case lines => exact absurd (by decide) hq
  case areas => exact absurd (by decide) hq
  case taps => exact absurd (by decide) hq
  case guards => exact absurd (by decide) hq
  all_goals rfl

/-- An installation's report and status changes leave the records it has made. -/
theorem keeps_plInstall_records (p : Plan) (s : State) : KeepsAllBut reportParts (plInstalled p s) (plInstall p s) :=
  (KeepsAllBut.refl _).request.statusChanges.statusChanges

theorem line_plInstall (p : Plan) (s : State) (l : Fin 24) : (plInstall p s).line l = LineRec.start :=
  (line_of_keeps (keeps_plInstall_records p s) l).trans (by simp [State.line, plInstalled])

theorem area_plInstall (p : Plan) (s : State) (a : Fin 8) : (plInstall p s).area a = AreaRec.fresh :=
  (area_of_keeps (keeps_plInstall_records p s) a).trans (by simp [State.area, plInstalled])

theorem tap_plInstall {p : Plan} {z : Fin 48} (s : State) (hz : z.val < p.zoneCount) :
    (plInstall p s).tap z = TapRec.start p z :=
  (tap_of_keeps (keeps_plInstall_records p s) z).trans (by simp [State.tap, plInstalled, installedTaps, hz])

theorem guard_plInstall {p : Plan} {z : Fin 48} (s : State) (hz : z.val < p.zoneCount) :
    (plInstall p s).guard z = GuardRec.installed s.store s.yieldLevel z :=
  (guard_of_keeps (keeps_plInstall_records p s) z).trans (by simp [State.guard, plInstalled, installedGuards, hz])

theorem marked_plInstall {p : Plan} {o : Nat} (s : State) (h : o ∈ [16, 17] ++ recordOffsets p) :
    Marked (plInstall p s) o := by
  obtain h | h := List.mem_append.1 h
  · exact (marked_statusChanges _ _ _ h).statusChanges _
  · exact marked_statusChanges _ _ _ h

theorem reported_plInstall (p : Plan) (s : State) :
    Reported s (plInstall p s) .planLoaded 0 p.planSum 1 := by
  have hreport : Reported s ((plInstalled p s).request .planLoaded 0 p.planSum 1) .planLoaded 0 p.planSum 1 :=
    reported_request s (plInstalled p s) _ _ _ _ rfl rfl
  unfold plInstall
  exact (hreport.statusChanges _).statusChanges _

theorem zoneOffset_mem {p : Plan} {z : Fin 48} (h : z.val < p.zoneCount) : 54 + z.val ∈ recordOffsets p :=
  List.mem_append_right _ (List.mem_map.2 ⟨z, (mem_zonesInUse p z).2 h, rfl⟩)

theorem lineOffset_mem {p : Plan} {l : Fin 24} (h : l.val < p.lineCount) : 30 + l.val ∈ recordOffsets p :=
  List.mem_append_left _ (List.mem_append_right _ (List.mem_map.2 ⟨l, by simpa using h, rfl⟩))

theorem areaOffset_mem {p : Plan} {a : Fin 8} (h : a.val < p.areaCount) : 22 + a.val ∈ recordOffsets p :=
  List.mem_append_left _ (List.mem_append_left _ (List.mem_map.2 ⟨a, by simpa using h, rfl⟩))

/-! ### A plan held for its swap (R116) -/

theorem keeps_plHold (p : Plan) (s : State) :
    KeepsAllBut ([.loadState, .loadWords, .standby, .outcome] ++ reportParts) s (plHold p s) := by
  have hloader : KeepsAllBut [.loadState, .loadWords, .standby, .outcome] s (s.setLoader
      { s.loader with state := .waitingSwap, loadWords := [], standby := some p, outcome := .loaded }) := fun q hq => by
    cases q
    case loadState => exact absurd (by decide) hq
    case loadWords => exact absurd (by decide) hq
    case standby => exact absurd (by decide) hq
    case outcome => exact absurd (by decide) hq
    all_goals rfl
  exact (hloader.mono (by decide)).request.statusChange

/-- Settles O32: `plPass` installs from COLD and holds the plan where one is live. -/
theorem passedChecksInstallOrWait : Obligations.PassedChecksInstallOrWait := by
  intro s hb hs ht p hsum hpass
  have hdone := plEndOfChecks_pass hs ((checkLoad_words ht hsum).trans hpass)
  refine ⟨_, exec_endOfChecks hb, ?_⟩
  rw [hdone]
  unfold plPass
  cases hl : s.loader.live with
  | none =>
    refine ⟨marked_plInstall s (by simp), fun _ => ⟨?loader, ?command, reported_plInstall p s, line_plInstall p s,
      area_plInstall p s, fun z hz => ⟨tap_plInstall s hz, guard_plInstall s hz,
        marked_plInstall s (List.mem_append_right _ (zoneOffset_mem hz))⟩,
      fun l h => marked_plInstall s (List.mem_append_right _ (lineOffset_mem h)),
      fun a h => marked_plInstall s (List.mem_append_right _ (areaOffset_mem h)), marked_plInstall s (by simp), ?frame⟩,
      fun h => absurd rfl h⟩
    case loader => exact loader_of_keeps (keeps_plInstall_records p s)
    case command => exact command_of_keeps (keeps_plInstall_records p s)
    case frame => exact ((keeps_plInstalled p s).mono (by decide)).trans ((keeps_plInstall_records p s).mono (by decide))
  | some q =>
    refine ⟨marked_statusChange _ _, fun h => (nomatch h), fun _ => ⟨?held, ?report, keeps_plHold p s⟩⟩
    case held => simp [plHold, p]
    case report => exact Reported.statusChange (reported_request _ _ _ _ _ _ rfl rfl) _

end Sys2Proof.Machine
end

section
/-!
PROOFS. The command unit (chapter 7): the command slot (O35) and the writes taken as they pass (O36).
-/
namespace Sys2Proof.Machine

-- one theorem after another, as in the tests: side by side they take more threads than the memory limit allows
set_option Elab.async false

/-! ### What the end of a post's taking leaves (R128) -/

/-- The state in which a post takes effect. -/
def State.posting (s : State) (code : Nat) (tag : BitVec 8) (unused : BitVec 16) : State :=
  (s.looked (s.postOf code tag unused)).slotTaken tag

/-- The state in which a post's effects have been made, once its writes are issued and its word waits. -/
def State.posted (s : State) (code : Nat) (tag : BitVec 8) (unused : BitVec 16) (x : Answer)
    (details : List OwnAccess) (u : State) : State :=
  startTreatment (s.postOf code tag unused) [] (plainTreatment (s.postOf code tag unused))
    (u.issue .cu (details ++ [.answerWrite (answerWord tag x)]))

section
variable (s : State) (code : Nat) (tag : BitVec 8) (unused : BitVec 16) (x : Answer) (d : List OwnAccess) (u : State)

@[simp] theorem posted_loader : (s.posted code tag unused x d u).loader = u.loader := rfl

@[simp] theorem posted_device : (s.posted code tag unused x d u).command.device = u.command.device := rfl

@[simp] theorem posted_ownPL : (s.posted code tag unused x d u).path.ownPL = u.path.ownPL := rfl

@[simp] theorem line_posted (l : Fin 24) : (s.posted code tag unused x d u).line l = u.line l := rfl

@[simp] theorem area_posted (a : Fin 8) : (s.posted code tag unused x d u).area a = u.area a := rfl

@[simp] theorem tap_posted (z : Fin 48) : (s.posted code tag unused x d u).tap z = u.tap z := rfl

@[simp] theorem guard_posted (z : Fin 48) : (s.posted code tag unused x d u).guard z = u.guard z := rfl

@[simp] theorem unit_posted (k : Fin 4) : (s.posted code tag unused x d u).unit k = u.unit k := rfl

end

theorem Marked.posted {u : State} {off : Nat} (h : Marked u off) (s : State) (code : Nat) (tag : BitVec 8)
    (unused : BitVec 16) (x : Answer) (d : List OwnAccess) : Marked (s.posted code tag unused x d u) off :=
  h.congr rfl rfl

/-- A report of a post's effects is one since AW's look at the post word. -/
theorem Reported.posted {s u : State} {code : Nat} {tag : BitVec 8} {unused : BitVec 16} {k : ReportKind} {n : Nat}
    {a b : Word} (h : Reported (s.posting code tag unused) u k n a b) (x : Answer) (d : List OwnAccess) :
    Reported (s.looked (s.postOf code tag unused)) (s.posted code tag unused x d u) k n a b :=
  (Reported.source (s' := s.looked (s.postOf code tag unused)) h rfl rfl).record

section
variable {s : State} {code : Nat} {tag : BitVec 8} {unused : BitVec 16}

/-- R128: a post that is DONE executes its command. -/
theorem postCommand_done {c : Command} (hc : code < 256) (ht : s.takesPost code tag unused)
    (hcode : commandOf code = some c) (hx : postOutcome s code s.command.shadow = .done) :
    postCommand code tag unused s = s.posted code tag unused .done
      (detailWrites c s.command.shadow (s.posting code tag unused))
      (execute c s.command.shadow (s.posting code tag unused)) := by
  rw [postCommand_taken hc ht hx]
  unfold postEffects
  rw [hcode]
  rfl

/-- R128: a post that is not DONE has no effects. -/
theorem postCommand_undone {x : Answer} (hc : code < 256) (ht : s.takesPost code tag unused)
    (hx : postOutcome s code s.command.shadow = x) (hd : x ≠ .done) :
    postCommand code tag unused s = s.posted code tag unused x [] (s.posting code tag unused) := by
  rw [postCommand_taken hc ht hx]
  unfold postEffects
  cases x
  case done => exact absurd rfl hd
  all_goals rfl

theorem posted_of_keeps {x : Answer} {d : List OwnAccess} {parts : List Part} {u : State}
    (h : KeepsAllBut parts (s.posting code tag unused) u)
    (hp : ∀ q ∈ [Part.slot, .lastTag, .latched, .ownCU], q ∉ parts := by decide) :
    Posted s (s.posted code tag unused x d u) code tag unused x d parts :=
  posted_of h hp

end

/-! ### The answer write (R130) -/

theorem keeps_answerMade (s : State) (v : Word) :
    KeepsAllBut [.slot, .port, .mem] s (cuAnswerDone (freePort (ownMemory (.answerWrite v) s))) := fun q hq => by
  cases q
  case slot => exact absurd (by decide) hq
  case port => exact absurd (by decide) hq
  case mem => exact absurd (by decide) hq
  all_goals rfl

/-- Settles O35: a taken post without effects (`postCommand_undone`), a refused one, and the end of the answer write. -/
theorem commandSlot : Obligations.CommandSlot := by
  refine ⟨fun s code tag unused x c hc ht hx hd => ⟨_, exec_postRows s hc, ?undone⟩,
    fun s code tag last unused c hc ht hs hl => ⟨_, exec_postRows s hc, ?refused⟩,
    fun s v hw hi hp => ⟨_, congrArg Host.Outcome.next (ownComplete_between hi hp rfl), rfl, rfl, fun b => ?memory,
      keeps_answerMade s v⟩, fun tag x => ?answer, fun _ _ _ => rfl⟩
  case undone =>
    rw [postCommand_undone code.isLt ht hx hd]
    exact posted_of_keeps (.refl _)
  case refused =>
    rw [postCommand_refused code.isLt ht hs hl]
    have hreport := reported_request (s.looked (s.postOf code.toNat tag unused))
      (s.looked (s.postOf code.toNat tag unused)) .commandRefused tag.toNat (word code.toNat) (word last.toNat) rfl rfl
    exact ⟨hreport.record, stores_plain _ _ _ _ _ _ (KeepsAllBut.refl _).request⟩
  case memory => exact memRead_ownMemory (x := .answerWrite v) hw rfl b
  case answer => cases x <;> rfl

/-! ### Writes taken as they pass (R93) -/

/-- A word of the plan area that its owner takes as it passes. -/
theorem planAreaCommand_stores {s : State} {off : Nat} {v : Word} {parts : List Part} (ho : off ≤ 4095)
    (h : s.takes (s.coreWord off v)) (hp : protectedOffset off = false) (hi : ¬ (512 ≤ off ∧ off - 512 < 193))
    (hk : KeepsAllBut parts (s.looked (s.coreWord off v)) (snoop off v (s.looked (s.coreWord off v)))) :
    Stores s (planAreaCommand .core off v s) (s.coreWord off v) v parts := by
  rw [planAreaCommand_snooped ho h hp hi]
  exact stores_plain _ _ _ _ _ _ (hk.mono fun q hq => List.mem_cons_of_mem _ hq)

theorem snoop_operand (n : Fin 4) (v : Word) (s : State) : snoop (2 + n.val) v s = cuOperand n v s := by
  have hn := n.isLt
  have hi : Fin.ofNat 4 (2 + n.val - 2) = n := finOfNat_val (by omega)
  unfold snoop
  rw [if_neg (by omega), if_pos (by omega), hi]

theorem snoop_tail (v : Word) (s : State) : snoop 9 v s = rwTail v s := rfl

theorem snoop_frameMark (v : Word) (s : State) : snoop 8 v s = cuFrameMark v s := rfl

theorem planWordOffset_iff (off : Nat) : planWordOffset off = true ↔ 1024 ≤ off ∧ off ≤ 1862 := by
  unfold planWordOffset
  simp

theorem snoop_planWord {off : Nat} (h1 : 1024 ≤ off) (h2 : off ≤ 1862) (v : Word) (s : State) :
    snoop off v s = plPlanWrite off s := by
  unfold snoop
  rw [if_neg (by omega), if_neg (by omega), if_neg (by omega), if_neg (by omega), if_neg (by omega),
    if_pos ((planWordOffset_iff off).2 ⟨h1, h2⟩)]

theorem keeps_cuOperand (n : Fin 4) (v : Word) (s : State) : KeepsAllBut [.shadow] s (cuOperand n v s) := fun q hq => by
  cases q
  case shadow => exact absurd (by decide) hq
  all_goals rfl

/-! ### The report tail (R159) -/

/-- R159: a tail update is taken exactly if it names an index within what the ring holds. -/
theorem rwTail_taken {s : State} {v : Word} (hv : v.toNat ≤ 63)
    (hm : (BitVec.ofNat 6 v.toNat - s.writer.tail).toNat ≤ (s.writer.head - s.writer.tail).toNat) :
    rwTail v s = s.setWriter { s.writer with tail := BitVec.ofNat 6 v.toNat } :=
  if_pos ⟨hv, hm⟩

theorem rwTail_ignored {s : State} {v : Word} (h : 63 < v.toNat ∨
    (s.writer.head - s.writer.tail).toNat < (BitVec.ofNat 6 v.toNat - s.writer.tail).toNat) : rwTail v s = s :=
  if_neg fun hc => by
    obtain ⟨h1, h2⟩ := hc
    have h2' : (BitVec.ofNat 6 v.toNat - s.writer.tail).toNat ≤ (s.writer.head - s.writer.tail).toNat := h2
    omega

theorem keeps_tailMoved (s : State) (t : BitVec 6) :
    KeepsAllBut [.tail] s (s.setWriter { s.writer with tail := t }) := fun q hq => by
  cases q
  case tail => exact absurd (by decide) hq
  all_goals rfl

/-- R159: what the tail moves by leaves the ring. -/
theorem occupancy_moved {head tail t : BitVec 6} (h : (t - tail).toNat ≤ (head - tail).toNat) :
    (head - t).toNat + (t - tail).toNat = (head - tail).toNat := by
  have h1 := head.isLt
  have h2 := tail.isLt
  have h3 := t.isLt
  simp only [BitVec.toNat_sub] at h ⊢
  omega

/-! ### Plan words (R112) -/

theorem plPlanWrite_torn {s : State} (off : Nat) (hr : s.loader.state = .reading) (ht : s.loader.torn = none) :
    plPlanWrite off s = s.setLoader { s.loader with torn := some (off, s.loader.cursor) } :=
  if_pos ⟨hr, ht⟩

theorem plPlanWrite_ignored {s : State} (off : Nat) (h : s.loader.state ≠ .reading ∨ s.loader.torn ≠ none) :
    plPlanWrite off s = s :=
  if_neg fun hc => h.elim (fun h => h hc.1) (fun h => h hc.2)

theorem keeps_torn (s : State) (x : Option (Nat × Nat)) :
    KeepsAllBut [.torn] s (s.setLoader { s.loader with torn := x }) := fun q hq => by
  cases q
  case torn => exact absurd (by decide) hq
  all_goals rfl

theorem keeps_stamped (s : State) (stamp : Word) :
    KeepsAllBut [.lastStamp] s (s.setCommand { s.command with lastStamp := stamp }) := fun q hq => by
  cases q
  case lastStamp => exact absurd (by decide) hq
  all_goals rfl

/-- R125: without a live plan a frame mark only sets the stamp. -/
theorem cuFrameMark_cold {s : State} (stamp : Word) (h : s.loader.live = none) :
    cuFrameMark stamp s = s.setCommand { s.command with lastStamp := stamp } := by
  unfold cuFrameMark
  rw [h]

theorem exec_frameMarkRow {stamp : Word} {c : Instr} (hc : c ∈ frameMarkRows stamp) (s : State) :
    exec c s = .next (planAreaCommand .core 8 stamp s) := by
  simp only [frameMarkRows, List.mem_cons, List.not_mem_nil, or_false] at hc
  obtain rfl | rfl | rfl | rfl | rfl := hc
  all_goals rfl

theorem exec_operandWrite (n : Fin 4) (v : Word) (s : State) :
    exec (.operandWrite n v) s = .next (planAreaCommand .core (2 + n.val) v s) := rfl

theorem exec_tailUpdate (v : Word) (s : State) : exec (.tailUpdate v) s = .next (planAreaCommand .core 9 v s) := rfl

theorem exec_planWordWrite (off : BitVec 12) (v : Word) (s : State) :
    exec (.planWordWrite off v) s = .next (planAreaCommand .core off.toNat v s) := rfl

theorem protectedOffset_planWord {off : Nat} (h1 : 1024 ≤ off) : protectedOffset off = false := by
  rw [Bool.eq_false_iff, ne_eq, protectedOffset_iff]
  omega

/-- Settles O36: each offset's owner takes the word as it passes (`planAreaCommand_stores`). -/
theorem snoopedWritesTaken : Obligations.SnoopedWritesTaken := by
  refine ⟨⟨fun s n v ht => ⟨_, exec_operandWrite n v s, ?_⟩, fun s v ht => ⟨_, exec_tailUpdate v s, ?_⟩⟩,
    fun s stamp c hc ht hl => ?mark, fun s off v ht h1 h2 => ⟨_, exec_planWordWrite off v s, ?_⟩⟩
  case refine_1 =>
    have hn := n.isLt
    have hp : protectedOffset (2 + n.val) = false := by
      rw [Bool.eq_false_iff, ne_eq, protectedOffset_iff]
      omega
    refine ⟨?shadow, planAreaCommand_stores (by omega) ht hp (by omega) ?frame⟩
    case shadow =>
      rw [planAreaCommand_snooped (by omega) ht hp (by omega), snoop_operand]
      show ((awLook _ s).command.shadow.set n.val v) = _
      simp only [awLook_command]
    case frame =>
      rw [snoop_operand]
      exact keeps_cuOperand n v _
  case refine_2 =>
    have hw : (s.looked (s.coreWord 9 v)).writer.tail = s.writer.tail ∧
        (s.looked (s.coreWord 9 v)).writer.head = s.writer.head :=
      ⟨keeps_awLook s _ .tail (by decide), keeps_awLook s _ .head (by decide)⟩
    refine ⟨fun hv hm => ?taken, fun h => ?ignored⟩
    case taken =>
      have hsnoop := rwTail_taken (s := s.looked (s.coreWord 9 v)) hv (by rw [hw.1, hw.2]; exact hm)
      refine ⟨?tail, ?ring, planAreaCommand_stores (by omega) ht (by decide) (by omega) ?_⟩
      case tail =>
        rw [planAreaCommand_snooped (by omega) ht (by decide) (by omega), snoop_tail, hsnoop]
        show (BitVec.ofNat 6 v.toNat).toNat = v.toNat
        rw [BitVec.toNat_ofNat]
        omega
      case ring =>
        rw [planAreaCommand_snooped (by omega) ht (by decide) (by omega), snoop_tail, hsnoop]
        show ((s.looked (s.coreWord 9 v)).writer.head - BitVec.ofNat 6 v.toNat).toNat +
          (BitVec.ofNat 6 v.toNat - s.writer.tail).toNat = _
        rw [hw.2]
        exact occupancy_moved hm
      rw [snoop_tail, hsnoop]
      exact keeps_tailMoved _ _
    case ignored =>
      refine planAreaCommand_stores (by omega) ht (by decide) (by omega) ?_
      rw [snoop_tail, rwTail_ignored (by rw [hw.1, hw.2]; exact h)]
      exact .refl _
  case mark =>
    have hl' : (s.looked (s.coreWord 8 stamp)).loader.live = none := by simpa using hl
    refine ⟨_, exec_frameMarkRow hc s, ?stamp, planAreaCommand_stores (by omega) ht (by decide) (by omega) ?frame⟩
    case stamp =>
      rw [planAreaCommand_snooped (by omega) ht (by decide) (by omega), snoop_frameMark, cuFrameMark_cold _ hl']
      rfl
    case frame =>
      rw [snoop_frameMark, cuFrameMark_cold _ hl']
      exact keeps_stamped _ _
  case refine_3 =>
    have ho : off.toNat ≤ 4095 := Nat.le_of_lt_succ off.isLt
    have hp := protectedOffset_planWord h1
    have hl : (s.looked (s.coreWord off.toNat v)).loader = s.loader := by simp
    refine ⟨fun hr htorn => ?torn, fun h => ?ignored⟩
    case torn =>
      have hsnoop := (snoop_planWord h1 h2 v (s.looked (s.coreWord off.toNat v))).trans
        (plPlanWrite_torn _ (by rw [hl, hr]) (by rw [hl, htorn]))
      refine ⟨?loader, planAreaCommand_stores ho ht hp (by omega) (by rw [hsnoop]; exact keeps_torn _ _)⟩
      rw [planAreaCommand_snooped ho ht hp (by omega), hsnoop, hl]
      rfl
    case ignored =>
      refine planAreaCommand_stores ho ht hp (by omega) ?_
      rw [snoop_planWord h1 h2, plPlanWrite_ignored _ (by rw [hl]; exact h)]
      exact .refl _

end Sys2Proof.Machine
end

section
/-!
PROOFS. LOAD and DROP (chapter 7): O37 and O38.
-/
namespace Sys2Proof.Machine

-- one theorem after another, as in the tests: side by side they take more threads than the memory limit allows
set_option Elab.async false

/-! ### A post that is executed (R128, R129) -/

section
variable {s : State} {code : Nat} {tag : BitVec 8} {unused : BitVec 16}

@[simp] theorem posting_loader : (s.posting code tag unused).loader = s.loader := (slotTaken_records s _ tag).1

@[simp] theorem posting_path_ownPL : (s.posting code tag unused).path.ownPL = s.path.ownPL := by
  simp [State.posting, State.slotTaken]

@[simp] theorem line_posting (l : Fin 24) : (s.posting code tag unused).line l = s.line l :=
  (slotTaken_records s (s.postOf code tag unused) tag).2.2.2.2.1 l

@[simp] theorem area_posting (a : Fin 8) : (s.posting code tag unused).area a = s.area a :=
  (slotTaken_records s (s.postOf code tag unused) tag).2.1 a

@[simp] theorem tap_posting (z : Fin 48) : (s.posting code tag unused).tap z = s.tap z :=
  (slotTaken_records s (s.postOf code tag unused) tag).2.2.1 z

@[simp] theorem guard_posting (z : Fin 48) : (s.posting code tag unused).guard z = s.guard z :=
  (slotTaken_records s (s.postOf code tag unused) tag).2.2.2.1 z

theorem unit_posting (k : Fin 4) :
    (s.posting code tag unused).unit k = (s.looked (s.postOf code tag unused)).unit k := rfl

/-- R129: the part takes words, so the device is past start-up. -/
theorem takesPost_device (h : s.takesPost code tag unused) : s.command.device ≠ .starting := h.1.1.2

/-- R129: the device states of the commands that need a live plan. -/
theorem takenIn_planned {d : Device} (h1 : d ≠ .starting) (h2 : d ≠ .cold) {c : Command}
    (hc : c = .mute ∨ c = .proof ∨ c = .clear ∨ c = .tally) : takenIn c d = true := by
  obtain rfl | rfl | rfl | rfl := hc
  all_goals
    cases d
    case starting => exact absurd rfl h1
    case cold => exact absurd rfl h2
    all_goals rfl

theorem takenIn_any {d : Device} (h : d ≠ .starting) {c : Command} (hc : c = .load ∨ c = .watch) :
    takenIn c d = true := by
  obtain rfl | rfl := hc
  all_goals
    cases d
    case starting => exact absurd rfl h
    all_goals rfl

end

/-! ### LOAD (R111) -/

theorem execute_load (o : Vector Word 4) (s : State) : execute .load o s = plLoad s := by
  unfold execute
  cases s.loader.live <;> rfl

/-- PL's state as a load begins. -/
def Loader.begun (l : Loader) : Loader :=
  { l with state := .reading, cursor := 1024, torn := none, sum := 0, loadWords := [] }

theorem plLoad_stale {s : State} (h : s.loader.staleRead = true) :
    plLoad s = (s.setLoader s.loader.begun).statusChange 17 := by
  unfold plLoad
  dsimp only
  rw [if_pos h]
  rfl

theorem plLoad_fresh {s : State} (h : s.loader.staleRead = false) :
    plLoad s = (plIssueRead (s.setLoader s.loader.begun)).statusChange 17 := by
  unfold plLoad
  dsimp only
  rw [if_neg (by simp [h])]
  rfl

theorem keeps_begun (s : State) :
    KeepsAllBut [.loadState, .cursor, .torn, .sum, .loadWords] s (s.setLoader s.loader.begun) := fun q hq => by
  cases q
  case loadState => exact absurd (by decide) hq
  case cursor => exact absurd (by decide) hq
  case torn => exact absurd (by decide) hq
  case sum => exact absurd (by decide) hq
  case loadWords => exact absurd (by decide) hq
  all_goals rfl

theorem loader_plLoad (s : State) : (plLoad s).loader = { s.loader.begun with
    readInFlight := if s.loader.staleRead then s.loader.readInFlight else true } := by
  cases h : s.loader.staleRead
  case true => rw [plLoad_stale h, statusChange_loader]; rfl
  case false => rw [plLoad_fresh h, statusChange_loader]; rfl

theorem ownPL_plLoad (s : State) : (plLoad s).path.ownPL =
    s.path.ownPL ++ (if s.loader.staleRead then [] else [.planRead 1024]) := by
  cases h : s.loader.staleRead
  case true => rw [plLoad_stale h, statusChange_path_ownPL]; exact (List.append_nil _).symm
  case false => rw [plLoad_fresh h, statusChange_path_ownPL]; rfl

theorem keeps_plLoad (s : State) :
    KeepsAllBut ([.loadState, .cursor, .torn, .sum, .loadWords, .readInFlight, .ownPL] ++ statusParts) s (plLoad s) := by
  cases h : s.loader.staleRead
  case true =>
    rw [plLoad_stale h]
    exact ((keeps_begun s).mono (by decide)).statusChange
  case false =>
    rw [plLoad_fresh h]
    exact (keeps_plIssueRead ((keeps_begun s).mono (by decide))).statusChange

theorem marked_plLoad (s : State) : Marked (plLoad s) 17 := by
  cases h : s.loader.staleRead
  case true => rw [plLoad_stale h]; exact marked_statusChange _ _
  case false => rw [plLoad_fresh h]; exact marked_statusChange _ _

/-- Settles O37: LOAD is DONE with PL IDLE, and what it does is `plLoad`. -/
theorem loadBegins : Obligations.LoadBegins := by
  intro s tag unused ht hs
  have hdone : postOutcome s 1 s.command.shadow = .done :=
    postOutcome_done rfl (takenIn_any (takesPost_device ht) (.inl rfl)) rfl (decide_eq_true hs)
  have hexec : exec (.load tag unused) s = .next (postCommand 1 tag unused s) := rfl
  refine ⟨_, hexec, ?_⟩
  rw [postCommand_done (by omega) ht rfl hdone, execute_load]
  refine ⟨(marked_plLoad _).posted .., ?loader, ?reads, posted_of_keeps (keeps_plLoad _)⟩
  case loader => rw [posted_loader, loader_plLoad, posting_loader]; rfl
  case reads => rw [posted_ownPL, ownPL_plLoad, posting_loader, posting_path_ownPL]

/-! ### DROP (R119, R134) -/

theorem execute_drop (o : Vector Word 4) (s : State) : execute .drop o s = plDrop s := by
  unfold execute
  cases s.loader.live <;> rfl

theorem plAbandon_idle {s : State} (h : s.loader.state = .idle) : plAbandon s = s := if_pos h

/-- PL's state as a load in progress is abandoned. -/
def Loader.abandoned (l : Loader) : Loader :=
  { l with
    loadWords := [], standby := none, torn := none, outcome := .abandoned
    readInFlight := false, staleRead := l.staleRead || l.readInFlight }

theorem plAbandon_load {s : State} (h : s.loader.state ≠ .idle) :
    plAbandon s = (s.setLoader s.loader.abandoned).request .planRejected 5 (word (loadStateCode s.loader.state))
      (word s.loader.cursor) :=
  if_neg h

theorem keeps_droppedState (s : State) :
    KeepsAllBut [.loadState, .cursor, .live, .device, .lines, .areas, .taps, .guards] s (droppedState s) := fun q hq => by
  cases q
  case loadState => exact absurd (by decide) hq
  case cursor => exact absurd (by decide) hq
  case live => exact absurd (by decide) hq
  case device => exact absurd (by decide) hq
  case lines => exact absurd (by decide) hq
  case areas => exact absurd (by decide) hq
  case taps => exact absurd (by decide) hq
  case guards => exact absurd (by decide) hq
  all_goals rfl

/-- The status changes of DROP, which come after all its other work. -/
theorem keeps_plDrop_status (s : State) : KeepsAllBut statusParts (droppedState (plAbandon s)) (plDrop s) :=
  (KeepsAllBut.refl _).statusChanges.statusChanges

theorem loader_plDrop (s : State) :
    (plDrop s).loader = { (plAbandon s).loader with state := .idle, cursor := 1024, live := none } :=
  loader_of_keeps (keeps_plDrop_status s)

theorem line_plDrop (s : State) (l : Fin 24) : (plDrop s).line l = LineRec.start :=
  (line_of_keeps (keeps_plDrop_status s) l).trans (by simp [State.line, droppedState])

theorem area_plDrop (s : State) (a : Fin 8) : (plDrop s).area a = AreaRec.fresh :=
  (area_of_keeps (keeps_plDrop_status s) a).trans (by simp [State.area, droppedState])

theorem marked_plDrop {s : State} {p : Plan} (hl : s.loader.live = some p) {o : Nat}
    (h : o ∈ [16, 17] ++ recordOffsets p) : Marked (plDrop s) o := by
  unfold plDrop
  rw [hl]
  obtain h | h := List.mem_append.1 h
  · exact (marked_statusChanges _ _ _ h).statusChanges _
  · exact marked_statusChanges _ _ _ h

theorem reported_plDrop {s : State} (h : s.loader.state ≠ .idle) :
    Reported s (plDrop s) .planRejected 5 (word (loadStateCode s.loader.state)) (word s.loader.cursor) := by
  have hreport : Reported s (plAbandon s) .planRejected 5 (word (loadStateCode s.loader.state)) (word s.loader.cursor) := by
    rw [plAbandon_load h]
    exact reported_request _ _ _ _ _ _ rfl rfl
  have hdropped : Reported s (droppedState (plAbandon s)) .planRejected 5 (word (loadStateCode s.loader.state))
    (word s.loader.cursor) := hreport.record
  exact (hdropped.statusChanges _).statusChanges _

/-- What an abandoned load touches besides what DROP touches. -/
def abandonedParts : List Part :=
  [.standby, .torn, .loadWords, .outcome, .readInFlight, .staleRead, .queue, .dropped, .total]

theorem keeps_plAbandon {s : State} (h : s.loader.state ≠ .idle) :
    KeepsAllBut (abandonedParts ++ statusParts) s (plAbandon s) := by
  have hloader : KeepsAllBut [.standby, .torn, .loadWords, .outcome, .readInFlight, .staleRead] s
      (s.setLoader s.loader.abandoned) := fun q hq => by
    cases q
    case standby => exact absurd (by decide) hq
    case torn => exact absurd (by decide) hq
    case loadWords => exact absurd (by decide) hq
    case outcome => exact absurd (by decide) hq
    case readInFlight => exact absurd (by decide) hq
    case staleRead => exact absurd (by decide) hq
    all_goals rfl
  rw [plAbandon_load h]
  exact (hloader.mono (by decide)).request

theorem keeps_plDrop (s : State) :
    KeepsAllBut ([.device, .lines, .areas, .taps, .guards, .loadState, .cursor, .live] ++ statusParts ++
      if s.loader.state = .idle then [] else abandonedParts) s (plDrop s) := by
  by_cases h : s.loader.state = .idle
  · have hkeep := (keeps_droppedState (plAbandon s)).mono (d := [.device, .lines, .areas, .taps, .guards, .loadState,
      .cursor, .live] ++ statusParts) (by decide)
    rw [if_pos h, List.append_nil]
    refine KeepsAllBut.trans ?_ ((keeps_plDrop_status s).mono (by decide))
    rwa [plAbandon_idle h] at hkeep ⊢
  · rw [if_neg h]
    exact (((keeps_plAbandon h).mono (by decide)).trans ((keeps_droppedState _).mono (by decide))).trans
      ((keeps_plDrop_status s).mono (by decide))

/-- Settles O38: DROP is DONE in READY, and what it does is `plDrop`. -/
theorem dropGivesUpThePlan : Obligations.DropGivesUpThePlan := by
  intro s p tag unused ht hd hl
  have hdone : postOutcome s 2 s.command.shadow = .done := postOutcome_done rfl (by rw [hd]; rfl) rfl rfl
  have hexec : exec (.drop tag unused) s = .next (postCommand 2 tag unused s) := rfl
  have hlive : (s.posting 2 tag unused).loader.live = some p := by rw [posting_loader, hl]
  have hmark {o : Nat} (h : o ∈ [16, 17] ++ recordOffsets p) := (marked_plDrop hlive h).posted s 2 tag unused .done []
  refine ⟨_, hexec, ?_⟩
  rw [postCommand_done (by omega) ht rfl hdone, execute_drop]
  refine ⟨?device, hmark (by simp), hmark (by simp), fun hs => ?idle, fun hs => ⟨?loader, ?report⟩,
    fun l => (line_posted ..).trans (line_plDrop _ l), fun a => (area_posted ..).trans (area_plDrop _ a), fun z hz => hmark (List.mem_append_right _ (zoneOffset_mem hz)),
    fun l h => hmark (List.mem_append_right _ (lineOffset_mem h)),
    fun a h => hmark (List.mem_append_right _ (areaOffset_mem h)), ?posted⟩
  case device =>
    rw [posted_device]
    exact Eq.trans (keeps_plDrop_status (s.posting 2 tag unused) .device (by decide)) rfl
  case idle =>
    rw [posted_loader, loader_plDrop, plAbandon_idle (by rw [posting_loader, hs]), posting_loader]
    exact congrArg (fun x => { s.loader with state := x, cursor := 1024, live := none }) hs.symm
  case loader =>
    rw [posted_loader, loader_plDrop, plAbandon_load (by rw [posting_loader]; exact hs), request_loader, setLoader_loader,
      posting_loader]
    rfl
  case report =>
    have h := reported_plDrop (s := s.posting 2 tag unused) (by rw [posting_loader]; exact hs)
    rw [posting_loader] at h
    exact h.posted _ _
  case posted =>
    have h := keeps_plDrop (s.posting 2 tag unused)
    rw [posting_loader] at h
    refine posted_of_keeps h ?_
    split <;> decide

end Sys2Proof.Machine
end

section
/-!
PROOFS. ARM, DISARM, PIN and FREE (chapters 2 and 7): O39 and O40.
-/
namespace Sys2Proof.Machine

-- one theorem after another, as in the tests: side by side they take more threads than the memory limit allows
set_option Elab.async false

/-! ### Areas set fresh (R35) -/

theorem keeps_seArm (p : Plan) (s : State) : KeepsAllBut (.areas :: statusParts) s (seArm p s) :=
  .forEach _ (fun _ _ h => h.setArea.statusChange) (.refl s)

theorem area_seArm (p : Plan) (s : State) (a : Fin 8) :
    (seArm p s).area a = if a.val < p.areaCount then AreaRec.fresh else s.area a := by
  have := forEach_record (fun t a => t.area a) (fun _ => True) (fun _ _ => AreaRec.fresh) seArmArea
    (fun _ _ _ => trivial) (fun i t _ => by simp [seArmArea])
    (fun i k t _ hk => by simp [seArmArea, area_setArea_ne _ _ _ _ hk]) p.areasInUse (nodup_areasInUse p) s trivial a
  simpa [seArm] using this

theorem Marked.seArmArea {s : State} {off : Nat} (h : Marked s off) (a : Fin 8) : Marked (seArmArea a s) off :=
  (h.congr (t := s.setArea a AreaRec.fresh) rfl rfl).statusChange _

theorem Marked.seArm {s : State} {off : Nat} (h : Marked s off) (p : Plan) : Marked (seArm p s) off :=
  forEach_keeps (Marked · off) _ (fun a _ _ ht => ht.seArmArea a) h

theorem marked_seArm {p : Plan} {a : Fin 8} (s : State) (h : a.val < p.areaCount) :
    Marked (seArm p s) (22 + a.val) :=
  forEach_event (fun t a => t.area a) (fun _ => True) (Marked · (22 + a.val)) (fun _ => True) seArmArea
    (fun _ _ _ => trivial) (fun i k t _ hk => by simp [Machine.seArmArea, area_setArea_ne _ _ _ _ hk])
    (fun i _ ht => ht.seArmArea i) p.areasInUse (nodup_areasInUse p) s trivial a (by simpa using h) trivial
    (fun _ _ _ => marked_statusChange _ _)

/-! ### ARM (R135) -/

theorem execute_arm {s : State} {p : Plan} (o : Vector Word 4) (h : s.loader.live = some p) :
    execute .arm o s = cuArm p s := by
  unfold execute
  rw [h]

/-- CU moves the device state and marks its word. -/
def State.deviceMoved (s : State) (d : Device) : State := (s.setDevice d).statusChange 16

theorem keeps_deviceMoved (s : State) (d : Device) : KeepsAllBut (.device :: statusParts) s (s.deviceMoved d) := by
  have hdevice : KeepsAllBut (.device :: statusParts) s (s.setDevice d) := fun q hq => by
    cases q
    case device => exact absurd (by decide) hq
    all_goals rfl
  exact hdevice.statusChange

theorem device_deviceMoved (s : State) (d : Device) : (s.deviceMoved d).command.device = d := by
  unfold State.deviceMoved
  rw [statusChange_command]
  rfl

/-! ### DISARM (R136) -/

theorem execute_disarm {s : State} {p : Plan} (o : Vector Word 4) (h : s.loader.live = some p) :
    execute .disarm o s = cuDisarm p s := by
  unfold execute
  rw [h]

/-- R35: DISARM's notices to the zones. -/
def restNotices (p : Plan) (s : State) : State := forEach p.zonesInUse (fun z => teNotice z (p.restDelay z.val)) s

theorem cuDisarm_eq (p : Plan) (s : State) :
    cuDisarm p s = awDisarm (restNotices p (seArm p (s.deviceMoved .ready))) := rfl

theorem tap_restNotices (p : Plan) (s : State) (z : Fin 48) : (restNotices p s).tap z =
    if z.val < p.zoneCount then
      { s.tap z with pendingTarget := pendingAfter (s.tap z).glide (p.restDelay z.val) }
    else s.tap z := by
  unfold restNotices
  rw [tap_notices _ (nodup_zonesInUse p)]
  simp only [mem_zonesInUse, noticed_eq]

theorem keeps_restNotices (p : Plan) (s : State) : KeepsAllBut (.taps :: statusParts) s (restNotices p s) :=
  keeps_notices _ _ _

theorem Marked.restNotices {s : State} {off : Nat} (h : Marked s off) (p : Plan) : Marked (restNotices p s) off :=
  forEach_keeps (Marked · off) _ (fun _ _ _ ht => ht.teNotice _ _) h

theorem tapMoves_restNotices (p : Plan) (s : State) (z : Fin 48) : TapMoves z s (restNotices p s) :=
  TapMoves.forEach _ (fun k _ u => TapMoves.teNotice k _ u) s

/-! ### Watch units at a DISARM (R151) -/

theorem awTurnOff_cases (k : Fin 4) (s : State) :
    ((s.unit k).on = false ∧ awTurnOff k s = s) ∨
      ((s.unit k).on = true ∧
        awTurnOff k s = (s.setUnit k { s.unit k with on := false }).statusChanges (unitOffsets k)) := by
  cases h : (s.unit k).on
  case false => exact .inl ⟨rfl, if_neg (by simp [h])⟩
  case true => exact .inr ⟨rfl, if_pos h⟩

theorem unit_awTurnOff_self (k : Fin 4) (s : State) : (awTurnOff k s).unit k = { s.unit k with on := false } := by
  obtain ⟨hon, h⟩ | ⟨-, h⟩ := awTurnOff_cases k s
  case inl =>
    rw [h]
    exact congrArg (fun b => { s.unit k with on := b }) hon
  case inr => rw [h, unit_statusChanges, unit_setUnit_self]

theorem unit_awTurnOff_ne {k j : Fin 4} (s : State) (hj : j ≠ k) : (awTurnOff k s).unit j = s.unit j := by
  obtain ⟨-, h⟩ | ⟨-, h⟩ := awTurnOff_cases k s
  case inl => rw [h]
  case inr => rw [h, unit_statusChanges, unit_setUnit_ne _ _ _ _ hj]

theorem Marked.awTurnOff {s : State} {off : Nat} (hm : Marked s off) (k : Fin 4) : Marked (awTurnOff k s) off := by
  obtain ⟨-, h⟩ | ⟨-, h⟩ := awTurnOff_cases k s
  case inl => rwa [h]
  case inr => rw [h]; exact (hm.congr (t := s.setUnit k _) rfl rfl).statusChanges _

theorem unitOffset_mem (k n : Fin 4) : 102 + 4 * k.val + n.val ∈ unitOffsets k := by
  have := n.isLt
  simp [unitOffsets]

theorem marked_awTurnOff {k : Fin 4} {s : State} (h : (s.unit k).on = true) (n : Fin 4) :
    Marked (awTurnOff k s) (102 + 4 * k.val + n.val) := by
  obtain ⟨hon, -⟩ | ⟨-, hs⟩ := awTurnOff_cases k s
  case inl => simp [hon] at h
  case inr => rw [hs]; exact marked_statusChanges _ _ _ (unitOffset_mem k n)

/-- The units of SERVICE scope. -/
def serviceUnits (s : State) : List (Fin 4) := (List.finRange 4).filter fun k => (s.unit k).scope = .service

theorem nodup_serviceUnits (s : State) : (serviceUnits s).Nodup := (List.nodup_finRange 4).filter _

theorem mem_serviceUnits (s : State) (k : Fin 4) : k ∈ serviceUnits s ↔ (s.unit k).scope = .service := by
  simp [serviceUnits]

theorem unit_awDisarm (s : State) (k : Fin 4) : (awDisarm s).unit k =
    { s.unit k with on := (s.unit k).on && decide ((s.unit k).scope ≠ .service) } := by
  have h := forEach_record (fun t k => t.unit k) (fun _ => True) (fun _ r => { r with on := false }) awTurnOff
    (fun _ _ _ => trivial) (fun i t _ => unit_awTurnOff_self i t) (fun i j t _ hj => unit_awTurnOff_ne t hj)
    (serviceUnits s) (nodup_serviceUnits s) s trivial k
  refine Eq.trans h ?_
  by_cases hs : (s.unit k).scope = .service
  · rw [if_pos ((mem_serviceUnits s k).2 hs)]
    simp [hs]
  · rw [if_neg fun hm => hs ((mem_serviceUnits s k).1 hm)]
    simp [hs]

theorem Marked.awDisarm {s : State} {off : Nat} (h : Marked s off) : Marked (awDisarm s) off :=
  forEach_keeps (Marked · off) _ (fun k _ _ ht => ht.awTurnOff k) h

theorem marked_awDisarm {s : State} {k : Fin 4} (h : ((awDisarm s).unit k).on ≠ (s.unit k).on) (n : Fin 4) :
    Marked (awDisarm s) (102 + 4 * k.val + n.val) := by
  rw [unit_awDisarm] at h
  have hon : (s.unit k).on = true := by
    by_contra hoff
    simp [hoff] at h
  have hscope : (s.unit k).scope = .service := by
    by_contra hs
    simp [hs] at h
  exact forEach_event (fun t k => t.unit k) (fun _ => True) (Marked · (102 + 4 * k.val + n.val)) (fun r => r.on = true)
    awTurnOff (fun _ _ _ => trivial) (fun i j t _ hj => unit_awTurnOff_ne t hj) (fun i _ ht => ht.awTurnOff i)
    (serviceUnits s) (nodup_serviceUnits s) s trivial k ((mem_serviceUnits s k).2 hscope) hon
    (fun _ _ hr => marked_awTurnOff hr n)

theorem keeps_awDisarm (s : State) : KeepsAllBut (.watch :: statusParts) s (awDisarm s) := (KeepsAllBut.refl s).awDisarm

/-- Settles O39: ARM is `cuArm`; DISARM is `cuDisarm`, the areas first, then the zones' notices, then the units. -/
theorem armAndDisarm : Obligations.ArmAndDisarm := by
  refine ⟨fun s p tag unused ht hd hl => ?arm, fun s p tag unused ht hd hl => ?disarm⟩
  case arm =>
    have hdone : postOutcome s 3 s.command.shadow = .done := postOutcome_done rfl (by rw [hd]; rfl) rfl rfl
    have hexec : exec (.arm tag unused) s = .next (postCommand 3 tag unused s) := rfl
    refine ⟨_, hexec, ?_⟩
    rw [postCommand_done (by omega) ht rfl hdone, execute_arm _ (by rw [posting_loader, hl])]
    generalize hv : (s.posting 3 tag unused).deviceMoved .service = v
    have hmoved : KeepsAllBut (.device :: statusParts) (s.posting 3 tag unused) v := hv ▸ keeps_deviceMoved _ _
    have harm : cuArm p (s.posting 3 tag unused) = seArm p v := by rw [← hv]; rfl
    rw [harm]
    refine ⟨?device, ?word16, fun a => ?area, fun a ha => (marked_seArm v ha).posted .., ?posted⟩
    case device =>
      rw [posted_device]
      exact Eq.trans (keeps_seArm p v .device (by decide)) (by rw [← hv]; exact device_deviceMoved _ _)
    case word16 => exact (Marked.seArm (hv ▸ marked_statusChange _ _) p).posted ..
    case area => rw [area_posted, area_seArm, area_of_keeps hmoved a, area_posting]
    case posted =>
      exact posted_of_keeps ((hmoved.mono (by decide)).trans ((keeps_seArm p v).mono (by decide)))
  case disarm =>
    have hdone : postOutcome s 4 s.command.shadow = .done := postOutcome_done rfl (by rw [hd]; rfl) rfl rfl
    have hexec : exec (.disarm tag unused) s = .next (postCommand 4 tag unused s) := rfl
    refine ⟨_, hexec, ?_⟩
    rw [postCommand_done (by omega) ht rfl hdone, execute_disarm _ (by rw [posting_loader, hl]), cuDisarm_eq]
    generalize hv : (s.posting 4 tag unused).deviceMoved .ready = v
    have hmoved : KeepsAllBut (.device :: statusParts) (s.posting 4 tag unused) v := hv ▸ keeps_deviceMoved _ _
    have hareas := keeps_seArm p v
    have hzones := keeps_restNotices p (seArm p v)
    have hunits := keeps_awDisarm (restNotices p (seArm p v))
    have htap (z : Fin 48) : (seArm p v).tap z = s.tap z := by
      rw [tap_of_keeps hareas z, tap_of_keeps hmoved z, tap_posting]
    have hunit (k : Fin 4) : (restNotices p (seArm p v)).unit k = (s.looked (s.postOf 4 tag unused)).unit k := by
      rw [unit_of_keeps hzones k, unit_of_keeps hareas k, unit_of_keeps hmoved k, unit_posting]
    refine ⟨?device, ?word16, fun a => ?area, fun a ha => (((marked_seArm v ha).restNotices p).awDisarm).posted ..,
      fun z => ⟨?tap, fun hz => ?tapWord⟩, fun k => ?unit, fun k hk n => ?unitWords, ?posted⟩
    case device =>
      rw [posted_device]
      calc (awDisarm (restNotices p (seArm p v))).command.device
          = (restNotices p (seArm p v)).command.device := hunits .device (by decide)
        _ = (seArm p v).command.device := hzones .device (by decide)
        _ = v.command.device := hareas .device (by decide)
        _ = .ready := by rw [← hv]; exact device_deviceMoved _ _
    case word16 => exact ((((hv ▸ marked_statusChange _ _ : Marked v 16).seArm p).restNotices p).awDisarm).posted ..
    case area =>
      rw [area_posted, area_of_keeps hunits a, area_of_keeps hzones a, area_seArm, area_of_keeps hmoved a, area_posting]
    case tap => rw [tap_posted, tap_of_keeps hunits z, tap_restNotices, htap]
    case tapWord =>
      have hmoves : TapMoves z (seArm p v) (awDisarm (restNotices p (seArm p v))) :=
        (tapMoves_restNotices p _ z).trans (TapMoves.keeps hunits Marked.awDisarm)
      obtain ⟨⟨x, hx, hmark⟩, -⟩ := hmoves
      rw [tap_posted, hx, ← htap z] at hz
      exact (hmark hz).posted ..
    case unit => rw [unit_posted, unit_awDisarm, hunit]
    case unitWords =>
      rw [unit_posted, ← hunit] at hk
      exact (marked_awDisarm hk n).posted ..
    case posted =>
      exact posted_of_keeps ((((hmoved.mono (by decide)).trans (hareas.mono (by decide))).trans
        (hzones.mono (by decide))).trans (hunits.mono (by decide)))

/-! ### PIN (R33, R137) -/

theorem execute_pin {s : State} {p : Plan} {o : Vector Word 4} {a i : Fin 8} (h : s.loader.live = some p)
    (ha : o[0].toNat = a.val) (hi : o[1].toNat = i.val) : execute .pin o s = sePin p a i s := by
  unfold execute
  rw [h]
  dsimp only
  rw [areaNo_val ha.symm, finOfNat_val hi]

theorem sePin_same {s : State} {p : Plan} {a i : Fin 8} (h : (s.area a).elected = some i) :
    sePin p a i s = (s.setArea a { s.area a with pin := some i, quiet := 0 }).statusChange (areaOffset a) :=
  if_pos h

theorem sePin_switch {s : State} {p : Plan} {a i : Fin 8} (h : (s.area a).elected ≠ some i) :
    sePin p a i s = seSwitch p a { s.area a with pin := some i, quiet := 0 } (some i) s :=
  if_neg h

theorem keeps_seSwitch (p : Plan) (a : Fin 8) (r : AreaRec) (x : Option (Fin 8)) (s : State) :
    KeepsAllBut (.areas :: .taps :: reportParts) s (seSwitch p a r x s) := (KeepsAllBut.refl s).seSwitch

theorem tapMoves_seSwitch (p : Plan) (a : Fin 8) (r : AreaRec) (x : Option (Fin 8)) (s : State) (z : Fin 48) :
    TapMoves z s (seSwitch p a r x s) := by
  rw [seSwitch_eq]
  refine TapMoves.trans ?_ (TapMoves.forEach _ (fun k _ u => TapMoves.teNotice k _ u) _)
  refine TapMoves.same (by simp) fun h => ?_
  exact ((h.congr (t := s.setArea a _) rfl rfl).request _ _ _ _).statusChange _

theorem mem_zonesOf_iff (p : Plan) (a : Fin 8) (z : Fin 48) :
    z ∈ p.zonesOf a ↔ z.val < p.zoneCount ∧ p.zoneArea z.val = a.val := by
  simp [Plan.zonesOf]

theorem reported_seSwitch {p : Plan} {a : Fin 8} {r : AreaRec} (x : Option (Fin 8)) (s : State) :
    Reported s (seSwitch p a r x s) .elected a.val (word (sourceCode r.elected)) (word (sourceCode x)) := by
  have h := seSwitch_asks (p := p) (a := a) r x (stamp := s.command.lastStamp) (s := s) (t := s) (m := [])
    ⟨rfl, asks_refl _ s⟩
  exact h.2

theorem pin_operandsOk {s : State} {p : Plan} {a i : Fin 8} (hl : s.loader.live = some p)
    (ho : s.command.shadow[0].toNat = a.val) (hoi : s.command.shadow[1].toNat = i.val) (ha : a.val < p.areaCount)
    (hi : i.val < p.candCount a.val) :
    operandsOk (planBase s.path.straps) s.loader.live .pin s.command.shadow = true := by
  unfold operandsOk
  simp [hl, ho, hoi, ha, hi]

/-! ### FREE (R34, R138) -/

theorem execute_free {s : State} {p : Plan} {o : Vector Word 4} {a : Fin 8} (h : s.loader.live = some p)
    (ha : o[0].toNat = a.val) : execute .free o s = seFree a s := by
  unfold execute
  rw [h]
  dsimp only
  rw [areaNo_val ha.symm]

theorem seFree_pinned {s : State} {a : Fin 8} (h : (s.area a).pin ≠ none) :
    seFree a s = (s.setArea a { s.area a with pin := none }).statusChange (areaOffset a) :=
  if_pos (Option.isSome_iff_ne_none.2 h)

theorem seFree_unpinned {s : State} {a : Fin 8} (h : (s.area a).pin = none) : seFree a s = s := if_neg (by simp [h])

theorem area_seFree (s : State) (a k : Fin 8) :
    (seFree a s).area k = if k = a then { s.area a with pin := none } else s.area k := by
  by_cases h : (s.area a).pin = none
  · rw [seFree_unpinned h]
    split
    case isTrue hk =>
      rw [hk]
      exact congrArg (fun x => { s.area a with pin := x }) h
    case isFalse => rfl
  · rw [seFree_pinned h, area_statusChange, area_setArea]

/-- Settles O40: a PIN to the source keeps it, another is a switch (`seSwitch`); FREE lets a pinned area go. -/
theorem pinAndFree : Obligations.PinAndFree := by
  refine ⟨fun s p tag unused a i ht hd hl ho hoi ha hi => ?pin, fun s p tag unused a ht hd hl ho ha => ?free⟩
  case pin =>
    have hdone : postOutcome s 5 s.command.shadow = .done :=
      postOutcome_done rfl (by rw [hd]; rfl) (pin_operandsOk hl ho hoi ha hi) rfl
    have hexec : exec (.pin tag unused) s = .next (postCommand 5 tag unused s) := rfl
    refine ⟨_, hexec, ?_⟩
    rw [postCommand_done (by omega) ht rfl hdone, execute_pin (by rw [posting_loader, hl]) ho hoi]
    have harea (k : Fin 8) := area_posting (s := s) (code := 5) (tag := tag) (unused := unused) k
    by_cases he : (s.area a).elected = some i
    case pos =>
      rw [sePin_same (by rw [harea, he]), harea]
      refine ⟨(marked_statusChange _ _).posted .., fun k hk => ?others, fun _ => ⟨?own, ?posted⟩, fun h => absurd he h⟩
      case others => rw [area_posted, area_statusChange, area_setArea_ne _ _ _ _ hk, harea]
      case own => rw [area_posted, area_statusChange, area_setArea_self]
      case posted => exact posted_of_keeps (KeepsAllBut.refl _).setArea.statusChange
    case neg =>
      rw [sePin_switch (by rw [harea]; exact he), harea]
      refine ⟨(marked_seSwitch ..).posted .., fun k hk => ?others, fun h => absurd h he,
        fun _ => ⟨?own, ?report, fun z => ⟨?tap, fun hz => ?tapWord⟩, posted_of_keeps (keeps_seSwitch _ _ _ _ _)⟩⟩
      case others => rw [area_posted, area_seSwitch, if_neg hk, harea]
      case own => rw [area_posted, area_seSwitch, if_pos rfl]
      case report => exact (reported_seSwitch ..).posted _ _
      case tap =>
        rw [tap_posted, tap_seSwitch, tap_posting]
        simp only [mem_zonesOf_iff, TapRec.toldOf, noticed_eq]
      case tapWord =>
        obtain ⟨⟨x, hx, hmark⟩, -⟩ := tapMoves_seSwitch p a { s.area a with pin := some i, quiet := 0 } (some i)
          (s.posting 5 tag unused) z
        rw [tap_posting] at hx hmark
        rw [tap_posted, hx] at hz
        exact (hmark hz).posted ..
  case free =>
    have hdone : postOutcome s 6 s.command.shadow = .done :=
      postOutcome_done rfl (by rw [hd]; rfl) (by simp [operandsOk, hl, ho, ha]) rfl
    have hexec : exec (.free tag unused) s = .next (postCommand 6 tag unused s) := rfl
    refine ⟨_, hexec, ?_⟩
    rw [postCommand_done (by omega) ht rfl hdone, execute_free (by rw [posting_loader, hl]) ho]
    have harea := area_seFree (s.posting 6 tag unused) a
    refine ⟨fun k hk => ?others, ?own, fun h => ?pinned, fun h => ?unpinned⟩
    case others => rw [area_posted, harea, if_neg hk, area_posting]
    case own => rw [area_posted, harea, if_pos rfl, area_posting]
    case pinned =>
      rw [seFree_pinned (by rw [area_posting]; exact h)]
      exact ⟨(marked_statusChange _ _).posted .., posted_of_keeps (KeepsAllBut.refl _).setArea.statusChange⟩
    case unpinned =>
      rw [seFree_unpinned (by rw [area_posting]; exact h)]
      exact posted_of_keeps (.refl _)

end Sys2Proof.Machine
end

section
/-!
PROOFS. MUTE, PROOF, CLEAR, WATCH and TALLY (chapter 7): O41, O42 and O43.
-/
namespace Sys2Proof.Machine

-- one theorem after another, as in the tests: side by side they take more threads than the memory limit allows
set_option Elab.async false

/-! ### Work on records that marks a word with each change -/

/-- The work `f` does for a record `i` makes `F i` of it, touches no other record, undoes no status change, and marks the
record's word where it changes it. -/
structure RecordWork {ι ρ : Type} (get : State → ι → ρ) (off : ι → Nat) (F : ι → ρ → ρ) (f : ι → State → State) :
    Prop where
  self : ∀ i s, get (f i s) i = F i (get s i)
  ne : ∀ i k s, k ≠ i → get (f i s) k = get s k
  keeps : ∀ i s o, Marked s o → Marked (f i s) o
  mark : ∀ i s, F i (get s i) ≠ get s i → Marked (f i s) (off i)

section
variable {ι ρ : Type} [DecidableEq ι] {get : State → ι → ρ} {off : ι → Nat} {F : ι → ρ → ρ} {f : ι → State → State}

theorem RecordWork.record (h : RecordWork get off F f) {l : List ι} (hn : l.Nodup) (s : State) (k : ι) :
    get (forEach l f s) k = if k ∈ l then F k (get s k) else get s k :=
  forEach_record get (fun _ => True) F f (fun _ _ _ => trivial) (fun i t _ => h.self i t) (fun i k t _ hk => h.ne i k t hk)
    l hn s trivial k

theorem RecordWork.marked (h : RecordWork get off F f) {l : List ι} (hn : l.Nodup) {s : State} {k : ι}
    (hc : get (forEach l f s) k ≠ get s k) : Marked (forEach l f s) (off k) := by
  rw [h.record hn] at hc
  by_cases hk : k ∈ l
  · rw [if_pos hk] at hc
    exact forEach_event get (fun _ => True) (Marked · (off k)) (fun r => F k r ≠ r) f (fun _ _ _ => trivial)
      (fun i k t _ hk => h.ne i k t hk) (fun i t ht => h.keeps i t _ ht) l hn s trivial k hk hc (fun t _ hr => h.mark k t hr)
  · rw [if_neg hk] at hc
    exact absurd rfl hc

end

/-- Work that leaves a guard record alone, or sets it and marks its zone's word. -/
theorem recordWork_guard {F : Fin 48 → GuardRec → GuardRec} {f : Fin 48 → State → State}
    (h : ∀ z s, (F z (s.guard z) = s.guard z ∧ f z s = s) ∨
      f z s = (s.setGuard z (F z (s.guard z))).statusChange (zoneOffset z)) :
    RecordWork State.guard (fun z => 54 + z.val) F f where
  self z s := by
    obtain ⟨hF, hs⟩ | hs := h z s
    · rw [hs, hF]
    · rw [hs, guard_statusChange, guard_setGuard_self]
  ne z k s hk := by
    obtain ⟨-, hs⟩ | hs := h z s
    · rw [hs]
    · rw [hs, guard_statusChange, guard_setGuard_ne _ _ _ _ hk]
  keeps z s o hm := by
    obtain ⟨-, hs⟩ | hs := h z s
    · rwa [hs]
    · rw [hs]
      exact (hm.congr (t := s.setGuard z _) rfl rfl).statusChange _
  mark z s hc := by
    obtain ⟨hF, -⟩ | hs := h z s
    · exact absurd hF hc
    · rw [hs]
      exact marked_statusChange _ _

/-! ### MUTE and PROOF (R77, R78) -/

theorem recordWork_zcMute (on : Bool) :
    RecordWork State.guard (fun z => 54 + z.val) (fun _ g => { g with muted := on }) (zcMute on) :=
  recordWork_guard fun z s => by
    by_cases h : (s.guard z).muted = on
    · exact .inl ⟨congrArg (fun b => { s.guard z with muted := b }) h.symm, if_pos h⟩
    · exact .inr (if_neg h)

theorem recordWork_zcProof (on : Bool) :
    RecordWork State.guard (fun z => 54 + z.val) (fun _ g => { g with proof := on }) (zcProof on) :=
  recordWork_guard fun z s => by
    by_cases h : (s.guard z).proof = on
    · exact .inl ⟨congrArg (fun b => { s.guard z with proof := b }) h.symm, if_pos h⟩
    · exact .inr (if_neg h)

theorem keeps_zcMute (on : Bool) (l : List (Fin 48)) (s : State) :
    KeepsAllBut (.guards :: statusParts) s (forEach l (zcMute on) s) :=
  .forEach _ (fun _ _ h => h.zcMute) (.refl s)

theorem keeps_zcProof (on : Bool) (z : Fin 48) (s : State) : KeepsAllBut (.guards :: statusParts) s (zcProof on z s) :=
  (KeepsAllBut.refl s).zcProof

/-- The zones a MUTE names: one, or for 255 every zone in use. -/
def mutedZones (p : Plan) (w : Word) : List (Fin 48) := if w = 255 then p.zonesInUse else [Fin.ofNat 48 w.toNat]

/-- The lines a CLEAR names: one, or for 255 every line in use. -/
def clearedLines (p : Plan) (w : Word) : List (Fin 24) := if w = 255 then p.linesInUse else [Fin.ofNat 24 w.toNat]

theorem nodup_mutedZones (p : Plan) (w : Word) : (mutedZones p w).Nodup := by
  unfold mutedZones
  split
  · exact nodup_zonesInUse p
  · exact List.nodup_singleton _

theorem nodup_clearedLines (p : Plan) (w : Word) : (clearedLines p w).Nodup := by
  unfold clearedLines
  split
  · exact nodup_linesInUse p
  · exact List.nodup_singleton _

theorem mem_mutedZones {p : Plan} {w : Word} (hw : w.toNat < p.zoneCount ∨ w = 255) (hp : p.zoneCount ≤ 48)
    (z : Fin 48) : z ∈ mutedZones p w ↔ w.toNat = z.val ∨ (w = 255 ∧ z.val < p.zoneCount) := by
  have hz := z.isLt
  unfold mutedZones
  by_cases h : w = 255
  · subst h
    rw [if_pos rfl, mem_zonesInUse]
    simp
    omega
  · have hlt : w.toNat < 48 := by
      obtain hw | hw := hw
      · omega
      · exact absurd hw h
    rw [if_neg h, List.mem_singleton, Fin.ext_iff]
    simp only [Fin.ofNat, Nat.mod_eq_of_lt hlt, h, false_and, or_false]
    omega

theorem mem_clearedLines {p : Plan} {w : Word} (hw : w.toNat < p.lineCount ∨ w = 255) (hp : p.lineCount ≤ 24)
    (l : Fin 24) : l ∈ clearedLines p w ↔ w.toNat = l.val ∨ (w = 255 ∧ l.val < p.lineCount) := by
  have hl := l.isLt
  unfold clearedLines
  by_cases h : w = 255
  · subst h
    rw [if_pos rfl]
    simp
    omega
  · have hlt : w.toNat < 24 := by
      obtain hw | hw := hw
      · omega
      · exact absurd hw h
    rw [if_neg h, List.mem_singleton, Fin.ext_iff]
    simp only [Fin.ofNat, Nat.mod_eq_of_lt hlt, h, false_and, or_false]
    omega

theorem execute_mute {s : State} {p : Plan} {o : Vector Word 4} {on : Bool} (h : s.loader.live = some p)
    (ho : o[1] = (if on then 1 else 0)) : execute .mute o s = forEach (mutedZones p o[0]) (zcMute on) s := by
  have hon : decide (o[1] = 1) = on := by rw [ho]; cases on <;> rfl
  unfold execute
  rw [h]
  dsimp only
  unfold cuMute mutedZones
  rw [hon]
  split <;> rfl

theorem execute_proof {s : State} {p : Plan} {o : Vector Word 4} {on : Bool} {z : Fin 48} (h : s.loader.live = some p)
    (hz : o[0].toNat = z.val) (ho : o[1] = (if on then 1 else 0)) : execute .proof o s = zcProof on z s := by
  have hon : decide (o[1] = 1) = on := by rw [ho]; cases on <;> rfl
  unfold execute
  rw [h]
  dsimp only
  rw [hon, finOfNat_val hz]

theorem onOffOk_of {w : Word} {on : Bool} (h : w = (if on then 1 else 0)) : onOffOk w = true := by
  rw [h]
  cases on <;> rfl

/-! ### CLEAR (R14) -/

/-- R14: what CLEAR makes of a line's record. -/
def LineRec.cleared (r : LineRec) : LineRec :=
  if r.cond = .faulted then { r with cond := if r.anchorValid then .running else .synced, quiet := 0 } else r

theorem ltClear_faulted {l : Fin 24} {s : State} (h : (s.line l).cond = .faulted) :
    ltClear l s = (s.setLine l (s.line l).cleared).statusChange (lineOffset l) := by
  unfold ltClear LineRec.cleared
  rw [if_pos h, if_pos h]

theorem ltClear_other {l : Fin 24} {s : State} (h : (s.line l).cond ≠ .faulted) :
    ltClear l s = s ∧ (s.line l).cleared = s.line l :=
  ⟨if_neg h, if_neg h⟩

theorem recordWork_ltClear : RecordWork State.line (fun l => 30 + l.val) (fun _ r => r.cleared) ltClear where
  self l s := by
    by_cases h : (s.line l).cond = .faulted
    · rw [ltClear_faulted h, line_statusChange, line_setLine_self]
    · rw [(ltClear_other h).1, (ltClear_other h).2]
  ne l k s hk := by
    by_cases h : (s.line l).cond = .faulted
    · rw [ltClear_faulted h, line_statusChange, line_setLine_ne _ _ _ _ hk]
    · rw [(ltClear_other h).1]
  keeps l s o hm := by
    by_cases h : (s.line l).cond = .faulted
    · rw [ltClear_faulted h]
      exact (hm.congr (t := s.setLine l _) rfl rfl).statusChange _
    · rwa [(ltClear_other h).1]
  mark l s hc := by
    by_cases h : (s.line l).cond = .faulted
    · rw [ltClear_faulted h]
      exact marked_statusChange _ _
    · exact absurd (ltClear_other h).2 hc

theorem keeps_ltClear (l : List (Fin 24)) (s : State) : KeepsAllBut (.lines :: statusParts) s (forEach l ltClear s) :=
  .forEach _ (fun i u h => by
    by_cases hf : (u.line i).cond = .faulted
    · rw [ltClear_faulted hf]
      exact h.setLine.statusChange
    · rwa [(ltClear_other hf).1]) (.refl s)

theorem execute_clear {s : State} {p : Plan} (o : Vector Word 4) (h : s.loader.live = some p) :
    execute .clear o s = forEach (clearedLines p o[0]) ltClear s := by
  unfold execute
  rw [h]
  dsimp only
  unfold cuClear clearedLines
  split <;> rfl

/-- Settles O41: each of the three is work on the records its operand names (`RecordWork`). -/
theorem muteProofAndClear : Obligations.MuteProofAndClear := by
  refine ⟨fun s p tag unused on ht hd hl ho hp ho1 => ?mute, fun s p tag unused z on ht hd hl ho hz ho1 hy => ?proof,
    fun s p tag unused ht hd hl ho hp => ?clear⟩
  case mute =>
    have hdone : postOutcome s 7 s.command.shadow = .done :=
      postOutcome_done rfl (takenIn_planned (takesPost_device ht) hd (.inl rfl))
        (by simpa [operandsOk, hl, onOffOk_of ho1] using ho) rfl
    have hexec : exec (.mute tag unused) s = .next (postCommand 7 tag unused s) := rfl
    refine ⟨_, hexec, ?_⟩
    rw [postCommand_done (by omega) ht rfl hdone, execute_mute (by rw [posting_loader, hl]) ho1]
    have hwork := recordWork_zcMute on
    have hn := nodup_mutedZones p s.command.shadow[0]
    refine ⟨fun z => ⟨?record, fun hc => ?word⟩, posted_of_keeps (keeps_zcMute _ _ _)⟩
    case record =>
      rw [guard_posted, hwork.record hn, guard_posting]
      simp only [mem_mutedZones ho hp]
    case word =>
      rw [guard_posted, ← guard_posting (s := s) (code := 7) (tag := tag) (unused := unused) z] at hc
      have hmark := hwork.marked hn hc
      exact hmark.posted ..
  case proof =>
    have hdone : postOutcome s 8 s.command.shadow = .done :=
      postOutcome_done rfl (takenIn_planned (takesPost_device ht) hd (.inr (.inl rfl)))
        (by simp [operandsOk, hl, ho, hz, onOffOk_of ho1])
        (by cases on <;> simp_all [ownConditionOk])
    have hexec : exec (.proof tag unused) s = .next (postCommand 8 tag unused s) := rfl
    refine ⟨_, hexec, ?_⟩
    rw [postCommand_done (by omega) ht rfl hdone, execute_proof (by rw [posting_loader, hl]) ho ho1]
    have hwork := recordWork_zcProof on
    refine ⟨?own, fun k hk => ?others, fun hc => ?word, posted_of_keeps (keeps_zcProof _ _ _)⟩
    case own => rw [guard_posted, hwork.self, guard_posting]
    case others => rw [guard_posted, hwork.ne _ _ _ hk, guard_posting]
    case word =>
      rw [guard_posted, hwork.self, ← guard_posting (s := s) (code := 8) (tag := tag) (unused := unused) z] at hc
      have hmark := hwork.mark _ _ hc
      exact hmark.posted ..
  case clear =>
    have hdone : postOutcome s 9 s.command.shadow = .done :=
      postOutcome_done rfl (takenIn_planned (takesPost_device ht) hd (.inr (.inr (.inl rfl))))
        (by simpa [operandsOk, hl] using ho) rfl
    have hexec : exec (.clear tag unused) s = .next (postCommand 9 tag unused s) := rfl
    refine ⟨_, hexec, ?_⟩
    rw [postCommand_done (by omega) ht rfl hdone, execute_clear _ (by rw [posting_loader, hl])]
    have hn := nodup_clearedLines p s.command.shadow[0]
    refine ⟨fun l => ⟨?record, fun hc => ?word⟩, posted_of_keeps (keeps_ltClear _ _)⟩
    case record =>
      rw [line_posted, recordWork_ltClear.record hn, line_posting]
      simp only [mem_clearedLines ho hp, LineRec.cleared, ite_and]
    case word =>
      rw [line_posted, ← line_posting (s := s) (code := 9) (tag := tag) (unused := unused) l] at hc
      have hmark := recordWork_ltClear.marked hn hc
      exact hmark.posted ..

/-! ### TALLY (R143) -/

theorem execute_tally {s : State} {p : Plan} {o : Vector Word 4} {z : Fin 48} (h : s.loader.live = some p)
    (hz : o[0].toNat = z.val) : execute .tally o s = cuTally z s := by
  unfold execute
  rw [h]
  dsimp only
  rw [finOfNat_val hz]

theorem detailWrites_tally {o : Vector Word 4} {z : Fin 48} (s : State) (hz : o[0].toNat = z.val) :
    detailWrites .tally o s =
      [.detailWrite 0 (word (s.tap z).saturations), .detailWrite 1 (word (s.guard z).ceilingCount)] := by
  unfold detailWrites
  dsimp only
  rw [finOfNat_val hz]

theorem tap_cuTally (z k : Fin 48) (s : State) :
    (cuTally z s).tap k = if k = z then { s.tap z with saturations := 0 } else s.tap k := by
  unfold cuTally zcClearCount teClearCount
  rw [tap_setGuard, tap_setTap]

theorem guard_cuTally (z k : Fin 48) (s : State) :
    (cuTally z s).guard k = if k = z then { s.guard z with ceilingCount := 0 } else s.guard k := by
  unfold cuTally zcClearCount teClearCount
  rw [guard_setGuard, guard_setTap, guard_setTap]

/-- Settles O43: the counts go out as detail words as they stand before `cuTally`. -/
theorem tallyTakesTheCounts : Obligations.TallyTakesTheCounts := by
  intro s p tag unused z ht hd hl ho hz
  have hdone : postOutcome s 11 s.command.shadow = .done :=
    postOutcome_done rfl (takenIn_planned (takesPost_device ht) hd (.inr (.inr (.inr rfl))))
      (by simp [operandsOk, hl, ho, hz]) rfl
  have hexec : exec (.tally tag unused) s = .next (postCommand 11 tag unused s) := rfl
  refine ⟨_, hexec, ?_⟩
  rw [postCommand_done (by omega) ht rfl hdone, execute_tally (by rw [posting_loader, hl]) ho,
    detailWrites_tally _ ho, tap_posting, guard_posting]
  refine ⟨?tap, ?guard, fun k hk => ⟨?otherTap, ?otherGuard⟩, ?posted⟩
  case tap => rw [tap_posted, tap_cuTally, if_pos rfl, tap_posting]
  case guard => rw [guard_posted, guard_cuTally, if_pos rfl, guard_posting]
  case otherTap => rw [tap_posted, tap_cuTally, if_neg hk, tap_posting]
  case otherGuard => rw [guard_posted, guard_cuTally, if_neg hk, guard_posting]
  case posted => exact posted_of_keeps (KeepsAllBut.refl _).setTap.setGuard

end Sys2Proof.Machine
end

section
/-!
PROOFS. WATCH (chapters 7 and 8): O42.
-/
namespace Sys2Proof.Machine

-- one theorem after another, as in the tests: side by side they take more threads than the memory limit allows
set_option Elab.async false

/-! ### The operands of WATCH (11.2, R149) -/

/-- A post that is DONE has its operands in range. -/
theorem operandsOk_of_done {s : State} {c : Command} {code : Nat} {o : Vector Word 4} (hcode : commandOf code = some c)
    (h : postOutcome s code o = .done) : operandsOk (planBase s.path.straps) s.loader.live c o = true := by
  unfold postOutcome at h
  rw [hcode] at h
  dsimp only at h
  by_contra hno
  rw [if_neg hno] at h
  split at h <;> simp at h

/-- What the operands of a SET in range are (R149). -/
structure SetInRange (o : Vector Word 4) : Prop where
  base : o[1].toNat ≤ 67108863
  kinds : (watchKindsField o[3]).isSome

/-- The number of an operation (11.2). -/
def WatchOp.number : WatchOp → Nat
  | .set => 1
  | .off => 2
  | .resetHits => 3

/-- The number of a unit's kinds (11.2). -/
def Kinds.number : Kinds → Nat
  | .read => 1
  | .write => 2
  | .either => 3

theorem watchOpField_some {w : Word} {x : WatchOp} : watchOpField w = some x ↔
    w.toNat / 256 % 256 = x.number := by
  have hb : bits w 8 8 = w.toNat / 256 % 256 := rfl
  unfold watchOpField
  rw [hb]
  split
  case h_4 h1 h2 h3 =>
    cases x
    case set => exact ⟨fun h => (nomatch h), fun h => (h1 h).elim⟩
    case off => exact ⟨fun h => (nomatch h), fun h => (h2 h).elim⟩
    case resetHits => exact ⟨fun h => (nomatch h), fun h => (h3 h).elim⟩
  all_goals
    rename_i h
    rw [h]
    cases x <;> simp [WatchOp.number]

theorem setInRange {base : Nat} {o : Vector Word 4} (h : watchOperandsOk base o = true)
    (hop : watchOpField o[0] = some .set) : SetInRange o := by
  unfold watchOperandsOk at h
  rw [hop] at h
  simp only [Bool.and_eq_true, decide_eq_true_eq] at h
  obtain ⟨-, ⟨⟨hbase, -⟩, -⟩, hkinds⟩ := h
  refine ⟨hbase, ?_⟩
  cases hk : watchKindsField o[3] with
  | none => simp [hk] at hkinds
  | some x => rfl

/-- Operands in range name one of the three operations. -/
theorem watchOpField_inRange {base : Nat} {o : Vector Word 4} (h : watchOperandsOk base o = true) :
    ∃ x, watchOpField o[0] = some x := by
  unfold watchOperandsOk at h
  cases hop : watchOpField o[0] with
  | none => simp [hop] at h
  | some x => exact ⟨x, rfl⟩

theorem watchKindsField_some {w : Word} {x : Kinds} (h : watchKindsField w = some x) :
    w.toNat / 2 % 4 = x.number := by
  have hb : bits w 1 2 = w.toNat / 2 % 4 := rfl
  unfold watchKindsField at h
  rw [hb] at h
  split at h
  case h_4 => simp at h
  all_goals
    rename_i hw
    obtain rfl := Option.some.inj h
    exact hw

theorem watchMastersField_toNat (w : Word) : (watchMastersField w).toNat = w.toNat / 16 % 16 := by
  have hb : bits w 4 4 = w.toNat / 16 % 16 := rfl
  unfold watchMastersField
  rw [hb, BitVec.toNat_ofNat]
  omega

theorem watchScopeField_service (w : Word) : watchScopeField w = .service ↔ w.toNat / 256 % 2 = 1 := by
  have hb : bits w 8 1 = w.toNat / 256 % 2 := rfl
  unfold watchScopeField
  rw [hb]
  split <;> simp <;> omega

theorem watchActionField_fence (w : Word) : watchActionField w = .fence ↔ w.toNat / 4096 % 2 = 1 := by
  have hb : bits w 12 1 = w.toNat / 4096 % 2 := rfl
  unfold watchActionField
  rw [hb]
  split <;> simp <;> omega

/-! ### The three operations (R150) -/

/-- R150: a unit after WATCH with these operands. -/
def watchResult (o : Vector Word 4) (r : WatchUnit) : WatchUnit :=
  match watchOpField o[0] with
  | none => r
  | some .set => unitSet o
  | some .off => { r with on := false }
  | some .resetHits => { r with hits := 0, firstHit := none }

/-- R150: WATCH changes the unit it names and marks its words, or leaves both. -/
theorem awCommand_cases {o : Vector Word 4} {k : Fin 4} (s : State) (hk : o[0].toNat % 256 = k.val) :
    (watchResult o (s.unit k) = s.unit k ∧ awCommand o s = s) ∨
      (watchResult o (s.unit k) ≠ s.unit k ∧
        awCommand o s = (s.setUnit k (watchResult o (s.unit k))).statusChanges (unitOffsets k)) := by
  have hu : Fin.ofNat 4 (watchUnitField o[0]) = k := finOfNat_val (by
    show o[0].toNat / 2 ^ 0 % 2 ^ 8 = k.val
    rw [Nat.pow_zero, Nat.div_one]
    exact hk)
  unfold awCommand watchResult
  dsimp only
  rw [hu]
  cases watchOpField o[0] with
  | none => exact .inl ⟨rfl, rfl⟩
  | some x =>
    cases x
    case set =>
      by_cases h : s.unit k = unitSet o
      · exact .inl ⟨h.symm, if_pos h⟩
      · exact .inr ⟨fun e => h e.symm, if_neg h⟩
    case off =>
      obtain ⟨hon, h⟩ | ⟨hon, h⟩ := awTurnOff_cases k s
      · exact .inl ⟨congrArg (fun b => { s.unit k with on := b }) hon.symm, h⟩
      · exact .inr ⟨fun e => Bool.false_ne_true ((congrArg WatchUnit.on e).trans hon), h⟩
    case resetHits =>
      by_cases h : { s.unit k with hits := 0, firstHit := none } = s.unit k
      · exact .inl ⟨h, if_pos h⟩
      · exact .inr ⟨h, if_neg h⟩

theorem execute_watch (o : Vector Word 4) (s : State) : execute .watch o s = awCommand o s := by
  unfold execute
  cases s.loader.live <;> rfl

theorem exec_watchRows {tag : BitVec 8} {unused : BitVec 16} {c : Instr}
    (h : c ∈ [Instr.watchSet tag unused, .watchOff tag unused, .watchResetHits tag unused]) (s : State) :
    exec c s = .next (postCommand 10 tag unused s) := by
  simp only [List.mem_cons, List.not_mem_nil, or_false] at h
  obtain rfl | rfl | rfl := h
  all_goals rfl

/-- R150: what SET leaves, in the terms of 11.2. -/
theorem unitSet_fields {o : Vector Word 4} (h : SetInRange o) :
    (unitSet o).on = true ∧ (unitSet o).base.toNat = o[1].toNat ∧ (unitSet o).length = o[2].toNat ∧
      o[3].toNat / 2 % 4 = (unitSet o).kinds.number ∧
      (unitSet o).masters.toNat = o[3].toNat / 16 % 16 ∧
      ((unitSet o).scope = .service ↔ o[3].toNat / 256 % 2 = 1) ∧
      ((unitSet o).action = .fence ↔ o[3].toNat / 4096 % 2 = 1) ∧
      (unitSet o).hits = 0 ∧ (unitSet o).firstHit = none := by
  obtain ⟨hbase, hkinds⟩ := h
  obtain ⟨x, hx⟩ := Option.isSome_iff_exists.1 hkinds
  have hk : (unitSet o).kinds = x := by
    show (watchKindsField o[3]).getD .either = x
    rw [hx]
    rfl
  refine ⟨rfl, ?base, rfl, ?kinds, watchMastersField_toNat _, watchScopeField_service _, watchActionField_fence _, rfl,
    rfl⟩
  case base =>
    show (BitVec.ofNat 26 o[1].toNat).toNat = o[1].toNat
    rw [BitVec.toNat_ofNat]
    omega
  case kinds =>
    rw [hk]
    exact watchKindsField_some hx

/-- Settles O42: the unit becomes `watchResult`, and its words change with it (`awCommand_cases`). -/
theorem watchOperations : Obligations.WatchOperations := by
  intro s tag unused k c hc ht hdone hk o operation r
  have hexec := exec_watchRows hc s
  have hok : watchOperandsOk (planBase s.path.straps) o = true := operandsOk_of_done (c := .watch) rfl hdone
  have hcases : (watchResult o r = r ∧ awCommand o (s.posting 10 tag unused) = s.posting 10 tag unused) ∨
      (watchResult o r ≠ r ∧ awCommand o (s.posting 10 tag unused) =
        ((s.posting 10 tag unused).setUnit k (watchResult o r)).statusChanges (unitOffsets k)) :=
    awCommand_cases (s.posting 10 tag unused) hk
  have hunit : (awCommand o (s.posting 10 tag unused)).unit k = watchResult o r := by
    obtain ⟨hr, h⟩ | ⟨-, h⟩ := hcases
    · rw [h]
      exact hr.symm
    · rw [h, unit_statusChanges, unit_setUnit_self]
  have hothers (j : Fin 4) (hj : j ≠ k) : (awCommand o (s.posting 10 tag unused)).unit j =
      (s.looked (s.postOf 10 tag unused)).unit j := by
    obtain ⟨-, h⟩ | ⟨-, h⟩ := hcases
    · rw [h, unit_posting]
    · rw [h, unit_statusChanges, unit_setUnit_ne _ _ _ _ hj, unit_posting]
  refine ⟨_, hexec, ?_⟩
  rw [postCommand_done (by omega) ht rfl hdone, execute_watch]
  refine ⟨fun j hj => (unit_posted ..).trans (hothers j hj), fun hop => ?set, fun hop => ?off, fun hop => ?reset,
    fun hc n => ?word, ?posted⟩
  case set =>
    have hop' : watchOpField o[0] = some .set := watchOpField_some.2 hop
    have hset : watchResult o r = unitSet o := by unfold watchResult; rw [hop']
    rw [unit_posted, hunit, hset]
    exact unitSet_fields (setInRange hok hop')
  case off =>
    have hop' : watchOpField o[0] = some .off := watchOpField_some.2 hop
    rw [unit_posted, hunit]
    unfold watchResult
    rw [hop']
  case reset =>
    have hop' : watchOpField o[0] = some .resetHits := watchOpField_some.2 hop
    rw [unit_posted, hunit]
    unfold watchResult
    rw [hop']
  case word =>
    rw [unit_posted, hunit] at hc
    obtain ⟨hr, -⟩ | ⟨-, h⟩ := hcases
    · exact absurd hr hc
    · have hmark : Marked (awCommand o (s.posting 10 tag unused)) (102 + 4 * k.val + n.val) := by
        rw [h]
        exact marked_statusChanges _ _ _ (unitOffset_mem k n)
      exact hmark.posted ..
  case posted =>
    rw [unit_posted, hunit]
    obtain ⟨hr, h⟩ | ⟨hr, h⟩ := hcases
    · rw [if_pos hr, h]
      exact posted_of_keeps (.refl _)
    · rw [if_neg hr, h]
      exact posted_of_keeps (KeepsAllBut.refl _).setUnit.statusChanges

end Sys2Proof.Machine
end

section
/-!
PROOFS. The outcome of a post (7.3, 7.4): O34.
-/
namespace Sys2Proof.Machine

-- one theorem after another, as in the tests: side by side they take more threads than the memory limit allows
set_option Elab.async false

/-! ### The tests of a post in order (R129) -/

/-- R129: the tests of a post with the code of a command. -/
theorem postOutcome_command {code : Nat} {c : Command} (hcode : commandOf code = some c) (s : State) (o : Vector Word 4) :
    postOutcome s code o = if takenIn c s.command.device = true then
        (if operandsOk (planBase s.path.straps) s.loader.live c o = true then
          (if ownConditionOk s c o = true then .done else .badState)
        else .badOperand)
      else .badState := by
  unfold postOutcome
  rw [hcode]

/-- R129, test 2: a command that the device state does not take. -/
theorem postOutcome_notTaken {code : Nat} {c : Command} (hcode : commandOf code = some c) {s : State}
    (h : takenIn c s.command.device = false) (o : Vector Word 4) : postOutcome s code o = .badState := by
  rw [postOutcome_command hcode, if_neg (by rw [h]; exact Bool.false_ne_true)]

/-- R129, test 3: a command taken in the device state, with no condition of its own. -/
theorem postOutcome_taken {code : Nat} {c : Command} (hcode : commandOf code = some c) {s : State} {o : Vector Word 4}
    (h : takenIn c s.command.device = true) (hown : ownConditionOk s c o = true) :
    postOutcome s code o =
      if operandsOk (planBase s.path.straps) s.loader.live c o = true then .done else .badOperand := by
  rw [postOutcome_command hcode, if_pos h, if_pos hown]

/-- The codes of the commands are 1 to 11 (11.2). -/
theorem commandOf_none {code : Nat} (h : code = 0 ∨ 12 ≤ code) : commandOf code = none := by
  refine List.find?_eq_none.2 fun c _ hc => ?_
  have hcode : c.code = code := of_decide_eq_true hc
  cases c
  all_goals
    change _ = code at hcode
    simp [Command.code] at hcode
    omega

theorem onOffOk_iff (w : Word) : onOffOk w = true ↔ w = 0 ∨ w = 1 := by
  unfold onOffOk
  simp

/-! ### The operands of WATCH in range (R149) -/

/-- R149: the window of a SET lies in the upstream space. -/
def WindowOk (o : Vector Word 4) : Prop :=
  o[1].toNat ≤ 67108863 ∧ 1 ≤ o[2].toNat ∧ o[2].toNat ≤ 65536 ∧ o[1].toNat + o[2].toNat - 1 ≤ 67108863

/-- R149: a SET that would fence CORE's writes to the post word, at a plan-area base. -/
def LocksPosts (base : Nat) (o : Vector Word 4) : Prop :=
  o[3].toNat / 4096 % 2 = 1 ∧ o[3].toNat / 16 % 16 % 2 = 1 ∧ (o[3].toNat / 2 % 4 = 2 ∨ o[3].toNat / 2 % 4 = 3) ∧
    o[1].toNat ≤ base ∧ base < o[1].toNat + o[2].toNat

/-- R149: the operands of a SET in range. -/
def SetOk (base : Nat) (o : Vector Word 4) : Prop :=
  WindowOk o ∧ o[3].toNat / 2 % 4 ≠ 0 ∧ o[3].toNat / 16 % 16 ≠ 0 ∧ ¬ LocksPosts base o

theorem watchKindsField_none {w : Word} : watchKindsField w = none ↔ w.toNat / 2 % 4 = 0 := by
  have hb : bits w 1 2 = w.toNat / 2 % 4 := rfl
  unfold watchKindsField
  rw [hb]
  split
  case h_4 h1 h2 h3 =>
    have hlt := Nat.mod_lt (w.toNat / 2) (show 0 < 4 by decide)
    have hne : w.toNat / 2 % 4 ≠ 1 ∧ w.toNat / 2 % 4 ≠ 2 ∧ w.toNat / 2 % 4 ≠ 3 := ⟨h1, h2, h3⟩
    exact iff_of_true rfl (by omega)
  all_goals
    rename_i h
    rw [h]
    simp

theorem watchMastersField_eq_zero (w : Word) : watchMastersField w = 0 ↔ w.toNat / 16 % 16 = 0 := by
  rw [← BitVec.toNat_inj, watchMastersField_toNat]
  rfl

theorem watchMastersField_core (w : Word) :
    inMasterSet (watchMastersField w) .core = true ↔ w.toNat / 16 % 16 % 2 = 1 := by
  have h : inMasterSet (watchMastersField w) .core = (watchMastersField w).toNat.testBit 0 := rfl
  rw [h, watchMastersField_toNat, Nat.testBit_zero, decide_eq_true_eq]

/-- The kinds that hold writes are those numbered 2 and 3 (11.2). -/
theorem kindsAllow_write (x : Kinds) : kindsAllow x true = true ↔ x.number = 2 ∨ x.number = 3 := by
  cases x <;> simp [kindsAllow, Kinds.number]

theorem watchUnitField_eq (w : Word) : watchUnitField w = w.toNat % 256 := congrArg (· % 256) (Nat.div_one _)

/-- R149: the operands of a SET, test by test. -/
theorem watchOperandsOk_set {base : Nat} {o : Vector Word 4} (hop : o[0].toNat / 256 % 256 = 1) :
    watchOperandsOk base o = true ↔ o[0].toNat % 256 ≤ 3 ∧ SetOk base o := by
  have hset : watchOpField o[0] = some .set := watchOpField_some.2 hop
  unfold watchOperandsOk SetOk
  rw [hset, watchUnitField_eq]
  cases hk : watchKindsField o[3] with
  | none => simp [watchKindsField_none.1 hk]
  | some x =>
    have hx := watchKindsField_some hk
    have h0 : o[3].toNat / 2 % 4 ≠ 0 := fun h => by simp [watchKindsField_none.2 h] at hk
    have hm : (watchMastersField o[3] != 0) = true ↔ o[3].toNat / 16 % 16 ≠ 0 := by
      rw [bne_iff_ne, Ne, watchMastersField_eq_zero]
    have hl : (decide (watchActionField o[3] = .fence) && inMasterSet (watchMastersField o[3]) .core &&
        kindsAllow x true && decide (o[1].toNat ≤ base ∧ base < o[1].toNat + o[2].toNat)) = true ↔ LocksPosts base o := by
      unfold LocksPosts
      rw [Bool.and_eq_true, Bool.and_eq_true, Bool.and_eq_true, decide_eq_true_eq, decide_eq_true_eq,
        watchActionField_fence, watchMastersField_core, kindsAllow_write, hx, and_assoc, and_assoc]
    dsimp only
    rw [Bool.and_eq_true, Bool.and_eq_true, Bool.and_eq_true, decide_eq_true_eq, decide_eq_true_eq, hm,
      Bool.not_eq_true', ← Bool.not_eq_true, hl]
    unfold WindowOk
    tauto

/-- R149: OFF and RESET_HITS name a unit. -/
theorem watchOperandsOk_other {base : Nat} {o : Vector Word 4}
    (hop : o[0].toNat / 256 % 256 = 2 ∨ o[0].toNat / 256 % 256 = 3) :
    watchOperandsOk base o = true ↔ o[0].toNat % 256 ≤ 3 := by
  have hfield : watchOpField o[0] = some .off ∨ watchOpField o[0] = some .resetHits :=
    hop.imp (watchOpField_some (x := .off)).2 (watchOpField_some (x := .resetHits)).2
  unfold watchOperandsOk
  rw [watchUnitField_eq]
  obtain h | h := hfield
  all_goals
    rw [h]
    simp

/-- R149: no other operation is in range. -/
theorem watchOperandsOk_noOp {base : Nat} {o : Vector Word 4}
    (hop : o[0].toNat / 256 % 256 = 0 ∨ 3 < o[0].toNat / 256 % 256) : watchOperandsOk base o = false := by
  refine Bool.eq_false_iff.2 fun h => ?_
  obtain ⟨x, hx⟩ := watchOpField_inRange h
  have hn := watchOpField_some.1 hx
  cases x
  all_goals
    change _ = (_ : Nat) at hn
    simp only [WatchOp.number] at hn
    omega

/-- R129, 7.4: WATCH is taken in every state but STARTING, and its operands decide. -/
theorem postOutcome_watch {s : State} (hd : s.command.device ≠ .starting) (o : Vector Word 4) :
    postOutcome s 10 o =
      if watchOperandsOk (s.path.straps.toNat * 1048576) o = true then .done else .badOperand := by
  rw [postOutcome_taken (c := .watch) rfl (takenIn_any hd (.inr rfl)) rfl, ← planBase_eq]
  rfl

/-- R149: the outcome of WATCH. -/
theorem postOutcome_watch_done {s : State} (hd : s.command.device ≠ .starting) {o : Vector Word 4}
    (h : watchOperandsOk (s.path.straps.toNat * 1048576) o = true) : postOutcome s 10 o = .done := by
  rw [postOutcome_watch hd, if_pos h]

/-! ### The commands of a live plan (R129, 7.4) -/

section
variable {s : State} {p : Plan} {o : Vector Word 4} (hl : s.loader.live = some p)
include hl

theorem postOutcome_pin (hd : s.command.device = .service) : postOutcome s 5 o =
    if o[0].toNat < p.areaCount ∧ o[1].toNat < p.candCount o[0].toNat then .done else .badOperand := by
  rw [postOutcome_taken (c := .pin) rfl (by rw [hd]; rfl) rfl]
  simp [operandsOk, hl]

theorem postOutcome_free (hd : s.command.device = .service) : postOutcome s 6 o =
    if o[0].toNat < p.areaCount then .done else .badOperand := by
  rw [postOutcome_taken (c := .free) rfl (by rw [hd]; rfl) rfl]
  simp [operandsOk, hl]

variable (h1 : s.command.device ≠ .starting) (h2 : s.command.device ≠ .cold)
include h1 h2

theorem postOutcome_mute : postOutcome s 7 o =
    if (o[0].toNat < p.zoneCount ∨ o[0] = 255) ∧ (o[1] = 0 ∨ o[1] = 1) then .done else .badOperand := by
  rw [postOutcome_taken (c := .mute) rfl (takenIn_planned h1 h2 (.inl rfl)) rfl]
  simp [operandsOk, hl, onOffOk_iff]

theorem postOutcome_proof : postOutcome s 8 o =
    if o[0].toNat < p.zoneCount ∧ (o[1] = 0 ∨ o[1] = 1) then
      (if o[1] = 1 ∧ s.yieldLevel = true then .badState else .done)
    else .badOperand := by
  rw [postOutcome_command (c := .proof) rfl, if_pos (takenIn_planned h1 h2 (.inr (.inl rfl)))]
  have hown : ownConditionOk s .proof o = true ↔ ¬ (o[1] = 1 ∧ s.yieldLevel = true) := by
    simp [ownConditionOk, imp_iff_not_or]
  have hops : operandsOk (planBase s.path.straps) s.loader.live .proof o = true ↔
      o[0].toNat < p.zoneCount ∧ (o[1] = 0 ∨ o[1] = 1) := by
    simp [operandsOk, hl, onOffOk_iff]
  simp only [hown, hops, ite_not]

theorem postOutcome_clear : postOutcome s 9 o =
    if o[0].toNat < p.lineCount ∨ o[0] = 255 then .done else .badOperand := by
  rw [postOutcome_taken (c := .clear) rfl (takenIn_planned h1 h2 (.inr (.inr (.inl rfl)))) rfl]
  simp [operandsOk, hl]

theorem postOutcome_tally : postOutcome s 11 o =
    if o[0].toNat < p.zoneCount then .done else .badOperand := by
  rw [postOutcome_taken (c := .tally) rfl (takenIn_planned h1 h2 (.inr (.inr (.inr rfl)))) rfl]
  simp [operandsOk, hl]

end

/-! ### Device states (R129, test 2; 7.4) -/

theorem postOutcome_load {s : State} (hd : s.command.device ≠ .starting) (o : Vector Word 4) :
    postOutcome s 1 o = if s.loader.state = .idle then .done else .badState := by
  rw [postOutcome_command (c := .load) rfl, if_pos (takenIn_any hd (.inl rfl))]
  simp [operandsOk, ownConditionOk]

theorem postOutcome_dropArm {s : State} {code : Nat} (hc : code = 2 ∨ code = 3) (o : Vector Word 4) :
    postOutcome s code o = if s.command.device = .ready then .done else .badState := by
  obtain rfl | rfl := hc
  case inl => rw [postOutcome_command (c := .drop) rfl]; simp [takenIn, operandsOk, ownConditionOk]
  case inr => rw [postOutcome_command (c := .arm) rfl]; simp [takenIn, operandsOk, ownConditionOk]

theorem postOutcome_disarm (s : State) (o : Vector Word 4) :
    postOutcome s 4 o = if s.command.device = .service then .done else .badState := by
  rw [postOutcome_command (c := .disarm) rfl]
  simp [takenIn, operandsOk, ownConditionOk]

theorem postOutcome_notService {s : State} (hd : s.command.device ≠ .service) {code : Nat} (hc : code = 5 ∨ code = 6)
    (o : Vector Word 4) : postOutcome s code o = .badState := by
  obtain rfl | rfl := hc
  case inl => exact postOutcome_notTaken (c := .pin) rfl (decide_eq_false hd) o
  case inr => exact postOutcome_notTaken (c := .free) rfl (decide_eq_false hd) o

theorem postOutcome_cold {s : State} (hd : s.command.device = .cold) {code : Nat}
    (hc : code = 7 ∨ code = 8 ∨ code = 9 ∨ code = 11) (o : Vector Word 4) : postOutcome s code o = .badState := by
  obtain rfl | rfl | rfl | rfl := hc
  case inl => exact postOutcome_notTaken (c := .mute) rfl (by rw [hd]; rfl) o
  case inr.inl => exact postOutcome_notTaken (c := .proof) rfl (by rw [hd]; rfl) o
  case inr.inr.inl => exact postOutcome_notTaken (c := .clear) rfl (by rw [hd]; rfl) o
  case inr.inr.inr => exact postOutcome_notTaken (c := .tally) rfl (by rw [hd]; rfl) o

/-- Settles O34: code by code; WATCH by the field its operands fail in. -/
theorem postOutcomes : Obligations.PostOutcomes := by
  intro s o hd d
  refine ⟨fun code hc => ?unknown, postOutcome_load hd o, fun code hc => postOutcome_dropArm hc o,
    postOutcome_disarm s o, fun h code hc => postOutcome_notService h hc o, fun h code hc => postOutcome_cold h hc o,
    fun p hl hcold => ⟨fun hs => ⟨postOutcome_pin hl hs, postOutcome_free hl hs⟩, postOutcome_mute hl hd hcold,
      postOutcome_proof hl hd hcold, postOutcome_clear hl hd hcold, postOutcome_tally hl hd hcold⟩,
    fun hu hop hw hk hm hlock => ?setDone, fun hu hop => ?otherDone, fun h => ?badOperand⟩
  case unknown =>
    unfold postOutcome
    rw [commandOf_none hc]
  case setDone => exact postOutcome_watch_done hd ((watchOperandsOk_set hop).2 ⟨hu, hw, hk, hm, hlock⟩)
  case otherDone => exact postOutcome_watch_done hd ((watchOperandsOk_other hop).2 hu)
  case badOperand =>
    rw [postOutcome_watch hd, if_neg]
    intro hok
    by_cases hno : o[0].toNat / 256 % 256 = 0 ∨ 3 < o[0].toNat / 256 % 256
    · rw [watchOperandsOk_noOp hno] at hok
      exact Bool.false_ne_true hok
    · by_cases hset : o[0].toNat / 256 % 256 = 1
      · obtain ⟨hu, hw, hk, hm, hlock⟩ := (watchOperandsOk_set hset).1 hok
        obtain h | h | h | ⟨-, h | h | h | h⟩ := h
        · omega
        · omega
        · omega
        · exact h hw
        · exact hk h
        · exact hm h
        · exact hlock h
      · have hu := (watchOperandsOk_other (by omega)).1 hok
        obtain h | h | h | ⟨h, -⟩ := h <;> omega

end Sys2Proof.Machine
end

section
/-!
PROOFS. The address watch (chapter 8): what every word leaves of the units (O44), and the writes that a fence drops (O45).
-/
namespace Sys2Proof.Machine

-- one theorem after another, as in the tests: side by side they take more threads than the memory limit allows
set_option Elab.async false

/-! ### A hit (R146) -/

/-- R146: a unit after a word that it matched. -/
def WatchUnit.hit (w : UpWord) (r : WatchUnit) : WatchUnit :=
  { r with hits := countUp r.hits, firstHit := r.firstHit.or (some (firstHitOf w)) }

theorem unit_awHit_self (w : UpWord) (u : Fin 4) (s : State) : (awHit w u s).unit u = (s.unit u).hit w := by
  unfold awHit WatchUnit.hit
  dsimp only
  cases h : (s.unit u).firstHit with
  | none =>
    dsimp only
    rw [unit_request, unit_statusChanges, unit_setUnit_self]
    rfl
  | some f =>
    dsimp only
    rw [unit_statusChanges, unit_setUnit_self]
    rfl

theorem marked_awHit (w : UpWord) (u n : Fin 4) (s : State) : Marked (awHit w u s) (102 + 4 * u.val + n.val) := by
  unfold awHit
  dsimp only
  cases (s.unit u).firstHit with
  | none => exact (marked_statusChanges _ _ _ (unitOffset_mem u n)).request ..
  | some f => exact marked_statusChanges _ _ _ (unitOffset_mem u n)

theorem Marked.awHit {s : State} {o : Nat} (h : Marked s o) (w : UpWord) (u : Fin 4) : Marked (awHit w u s) o := by
  unfold Machine.awHit
  dsimp only
  have hset (r : WatchUnit) : Marked (s.setUnit u r) o := h.congr rfl rfl
  cases (s.unit u).firstHit with
  | none => exact ((hset _).statusChanges _).request ..
  | some f => exact (hset _).statusChanges _

theorem recordWork_awHit (w : UpWord) (n : Fin 4) :
    RecordWork State.unit (fun u => 102 + 4 * u.val + n.val) (fun _ r => r.hit w) (awHit w) where
  self u s := unit_awHit_self w u s
  ne u k s hk := unit_awHit_ne w u k s hk
  keeps u _ _ hm := hm.awHit w u
  mark u s _ := marked_awHit w u n s

/-! ### AW's look at a word (R145, R148) -/

theorem nodup_matchingUnits (s : State) (w : UpWord) : (matchingUnits s w).Nodup := (List.nodup_finRange 4).filter _

theorem unit_awLook (w : UpWord) (s : State) (u : Fin 4) :
    (awLook w s).unit u = if u ∈ matchingUnits s w then (s.unit u).hit w else s.unit u :=
  (recordWork_awHit w 0).record (nodup_matchingUnits s w) s u

/-- R145: every hit marks the words of its unit, whether or not its record changes. -/
theorem marked_awLook {w : UpWord} {s : State} {u : Fin 4} (h : u ∈ matchingUnits s w) (n : Fin 4) :
    Marked (awLook w s) (102 + 4 * u.val + n.val) :=
  forEach_event State.unit (fun _ => True) (Marked · (102 + 4 * u.val + n.val)) (fun _ => True) (awHit w)
    (fun _ _ _ => trivial) (fun i k t _ hk => unit_awHit_ne w i k t hk) (fun i _ hm => hm.awHit w i) _
    (nodup_matchingUnits s w) s trivial u h trivial (fun t _ _ => marked_awHit w u n t)

/-- Asking for one report of each record of a list that has a property. -/
theorem flatMap_filter_single {ι : Type} (p q : ι → Prop) [DecidablePred p] [DecidablePred q] (g : ι → Request)
    (l : List ι) : ((l.filter fun i => decide (p i)).flatMap fun i => if q i then [g i] else []) =
      (l.filter fun i => decide (p i ∧ q i)).map g := by
  induction l with
  | nil => rfl
  | cons i l ih =>
    by_cases hp : p i
    · by_cases hq : q i
      · simp [hp, hq, ih]
      · simp [hp, hq, ih]
    · simp [hp, ih]

/-- R148: the first hits are reported in unit order. -/
theorem matchingUnits_asks (s : State) (w : UpWord) :
    ((matchingUnits s w).flatMap fun u => hitAsks w u (s.unit u)) =
      ((List.finRange 4).filter fun u => decide ((s.unit u).sees w ∧ (s.unit u).firstHit = none)).map fun u =>
        ⟨.watchHit, u.val, addrWord w.addr,
          word (masterCode w.master + 256 * (if isWrite w.dir then 2 else 1))⟩ := by
  have hunits : matchingUnits s w = (List.finRange 4).filter fun u => decide ((s.unit u).sees w) :=
    List.filter_congr fun u _ => Bool.eq_iff_iff.2 ((matches_iff _ _).trans decide_eq_true_iff.symm)
  rw [hunits]
  exact flatMap_filter_single (fun u => (s.unit u).sees w) (fun u => (s.unit u).firstHit = none)
    (fun u => ⟨.watchHit, u.val, addrWord w.addr,
      word (masterCode w.master + 256 * (if isWrite w.dir then 2 else 1))⟩) _

theorem mem_watchersOf (s : State) (w : UpWord) (u : Fin 4) :
    u ∈ watchersOf s w ↔ isWrite w.dir = false ∧ (s.unit u).sees w := by
  unfold watchersOf
  cases isWrite w.dir
  · simp [mem_matchingUnits]
  · simp

/-- Settles O44: AW's look is one hit for each matching unit. -/
theorem watchedWordsRecorded : Obligations.WatchedWordsRecorded := by
  intro s w
  refine ⟨awLook_unwatched s w, keeps_awLook s w, fun u => ⟨fun h => ⟨?record, fun n => ?mark⟩, fun h => ?others,
    mem_watchersOf s w u⟩, ?asks, fun ht hr => ?plain⟩
  case record =>
    rw [unit_awLook, if_pos ((mem_matchingUnits s w u).2 h)]
    obtain ⟨m, a, d⟩ := w
    cases d <;> rfl
  case mark => exact marked_awLook ((mem_matchingUnits s w u).2 h) n
  case others => rw [unit_awLook, if_neg (fun hm => h ((mem_matchingUnits s w u).1 hm))]
  case asks =>
    rw [← matchingUnits_asks]
    exact (awLook_asks w s).2
  case plain =>
    rw [exec_plainWord, present_noRegion ht hr, plainTreatment_eq]
    rfl

/-! ### Fences (R147) -/

theorem fenced_iff (s : State) (w : UpWord) :
    fenced s w = true ↔ isWrite w.dir = true ∧ ∃ u : Fin 4, (s.unit u).sees w ∧ (s.unit u).action = .fence := by
  unfold fenced
  rw [Bool.and_eq_true, List.any_eq_true]
  simp only [mem_matchingUnits, decide_eq_true_eq]

theorem exec_fencedWrite (m : Master) (a : Addr) (v : Word) (s : State) :
    exec (.fencedWrite m a v) s = .next (presentWord ⟨m, a, .write v⟩ s) := rfl

/-- Settles O45: a fenced write ends before any owner sees it (`presentWord_fenced`). -/
theorem fencedWriteDropped : Obligations.FencedWriteDropped := by
  refine ⟨fun s m a v u ht hs hf => ⟨_, exec_fencedWrite m a v s, ?dropped⟩, fenced_iff⟩
  case dropped =>
    rw [presentWord_fenced s _ ht ((fenced_iff s ⟨m, a, .write v⟩).2 ⟨rfl, u, hs, hf⟩), finishWord_nil]
    exact ⟨rfl, rfl, (KeepsAllBut.refl _).setDone⟩

end Sys2Proof.Machine
end

section
/-!
PROOFS. RW's choice of its next work (R157, R161, R162), and the publication of a report (O46).
-/
namespace Sys2Proof.Machine

-- one theorem after another, as in the tests: side by side they take more threads than the memory limit allows
set_option Elab.async false

/-! ### What RW begins (R157, R161) -/

/-- R157: the state in which RW has begun a report. -/
def State.reporting (s : State) (r : Report) : State :=
  (s.setWriter { s.writer with work := .report }).issue .rw (reportWrites r s.writer.head)

/-- R161: the state in which RW has begun the write of a status word, the lowest of the dirty ones. -/
def State.showing (s : State) (off : Nat) (rest : List Nat) : State :=
  (s.setWriter { s.writer with dirty := rest, work := .status }).issue .rw [.statusWrite off (s.statusWord off)]

theorem beginReport_cons {s : State} {r : Report} {rest : List Report} (h : s.writer.queue = r :: rest) :
    s.beginReport = s.reporting r := by
  unfold State.beginReport
  rw [h]
  rfl

theorem beginReport_nil {s : State} (h : s.writer.queue = []) : s.beginReport = s := by
  unfold State.beginReport
  rw [h]

theorem issueStatus_cons {s : State} {off : Nat} {rest : List Nat} (h : s.writer.dirty = off :: rest) :
    s.issueStatus = s.showing off rest := by
  unfold State.issueStatus
  rw [h]
  rfl

theorem issueStatus_nil {s : State} (h : s.writer.dirty = []) : s.issueStatus = s := by
  unfold State.issueStatus
  rw [h]

theorem showing_ownRW (s : State) (off : Nat) (rest : List Nat) :
    (s.showing off rest).path.ownRW = s.path.ownRW ++ [.statusWrite off (s.statusWord off)] := rfl

theorem keeps_reporting (s : State) (r : Report) : KeepsAllBut [.work, .ownRW] s (s.reporting r) := fun q hq => by
  cases q
  case work => exact absurd (by decide) hq
  case ownRW => exact absurd (by decide) hq
  all_goals rfl

theorem keeps_showing (s : State) (off : Nat) (rest : List Nat) :
    KeepsAllBut [.work, .dirty, .ownRW] s (s.showing off rest) := fun q hq => by
  cases q
  case work => exact absurd (by decide) hq
  case dirty => exact absurd (by decide) hq
  case ownRW => exact absurd (by decide) hq
  all_goals rfl

/-! ### RW's choice (R162) -/

theorem statusFirst_dirty {s : State} {off : Nat} {rest : List Nat} (h : s.writer.dirty = off :: rest) :
    s.statusFirst = s.showing off rest := by
  unfold State.statusFirst
  rw [if_neg (by rw [h]; exact List.cons_ne_nil _ _), issueStatus_cons h]

theorem statusFirst_report {s : State} {r : Report} {rest : List Report} (hd : s.writer.dirty = [])
    (hq : s.writer.queue = r :: rest) : s.statusFirst = s.reporting r := by
  unfold State.statusFirst
  rw [if_pos hd, beginReport_cons hq]

theorem statusFirst_idle {s : State} (hd : s.writer.dirty = []) (hq : s.writer.queue = []) : s.statusFirst = s := by
  unfold State.statusFirst
  rw [if_pos hd, beginReport_nil hq]

theorem chooseWork_starting {s : State} (hf : s.writer.work = .free) (hd : s.command.device = .starting) :
    s.chooseWork = s.issueStatus := by
  unfold State.chooseWork
  rw [if_pos hf, if_pos hd]

theorem chooseWork_report {s : State} {r : Report} {rest : List Report} (hf : s.writer.work = .free)
    (hd : s.command.device ≠ .starting) (hq : s.writer.queue = r :: rest) : s.chooseWork = s.reporting r := by
  unfold State.chooseWork State.reportFirst
  rw [if_pos hf, if_neg hd, if_neg (by rw [hq]; exact List.cons_ne_nil _ _), beginReport_cons hq]

theorem chooseWork_status {s : State} (hf : s.writer.work = .free)
    (hd : s.command.device = .starting ∨ s.writer.queue = []) : s.chooseWork = s.issueStatus := by
  by_cases hs : s.command.device = .starting
  · exact chooseWork_starting hf hs
  · unfold State.chooseWork State.reportFirst
    rw [if_pos hf, if_neg hs, if_pos (hd.resolve_left hs)]

/-! ### The end of an own write (R98) -/

/-- An own access has ended: its write is in memory and the port is free. -/
def State.accessEnded (s : State) (x : OwnAccess) : State := freePort (ownMemory x s)

theorem keeps_accessEnded (x : OwnAccess) (s : State) : KeepsAllBut [.port, .mem] s (s.accessEnded x) := by
  refine .trans ?_ ((keeps_freePort _).mono (by decide))
  unfold ownMemory
  cases x.data with
  | none => exact .refl s
  | some v => exact (KeepsAllBut.refl s).memWrite

/-- What RW's work leaves of what a completed access has made of memory and port. -/
theorem port_memRead_of_keeps {s t : State} {x : OwnAccess} {v : Word} {c : List Part} (h : KeepsAllBut c (s.accessEnded x) t)
    (hw : s.mem.wf) (hx : x.data = some v) (hc : ∀ q ∈ [Part.port, .mem], q ∉ c := by decide) :
    t.path.port = none ∧
      ∀ b, t.memRead b = if b = planAddr s.path.straps x.offset then v else s.memRead b := by
  have hmem : t.mem = (s.accessEnded x).mem := h .mem (hc _ (by decide))
  refine ⟨h .port (hc _ (by decide)), fun b => ?_⟩
  rw [← memRead_ownMemory hw hx b]
  exact congrArg (fun m : Memory => m.read b.toNat) hmem

/-! ### A head write (R158) -/

theorem exec_headWriteComplete {s : State} {i : BitVec 6} (hi : s.path.inHand = none)
    (hp : s.path.port = some (.own (.headWrite i))) :
    exec .headWriteComplete s = .next (rwHeadDone i (s.accessEnded (.headWrite i))) :=
  congrArg Host.Outcome.next (ownComplete_between hi hp rfl)

/-- R158: the report is published: the head moves past it and it leaves the queue. -/
def State.published (s : State) (i : BitVec 6) : State :=
  s.setWriter { s.writer with head := i, queue := s.writer.queue.tail, work := .free }

theorem keeps_published (i : BitVec 6) (s : State) : KeepsAllBut [.head, .queue, .work] s (s.published i) :=
  fun q hq => by
    cases q
    case head => exact absurd (by decide) hq
    case queue => exact absurd (by decide) hq
    case work => exact absurd (by decide) hq
    all_goals rfl

/-- The codes of the tables of 11.3 and 11.4 are those of the model. -/
theorem reportCodes : ReportCodes where
  kinds k := by cases k <;> rfl
  causes := ⟨rfl, rfl⟩
  storeConditions := ⟨rfl, rfl, rfl⟩
  reasons := ⟨rfl, rfl, rfl, rfl, rfl⟩
  loaderStates := ⟨rfl, rfl, rfl, rfl⟩
  modes := ⟨rfl, rfl⟩
  masters := ⟨rfl, rfl, rfl, rfl⟩
  sources := ⟨rfl, fun _ => rfl⟩
  addresses _ := rfl

/-- Settles O46: the report is published (`State.published`), and RW chooses a status word before a report. -/
theorem headWritePublishes : Obligations.HeadWritePublishes := by
  refine ⟨reportCodes, fun s i hw hi hp => ⟨_, exec_headWriteComplete hi hp, ?_⟩⟩
  let u := (s.accessEnded (.headWrite i)).published i
  have hstep : rwHeadDone i (s.accessEnded (.headWrite i)) = u.statusFirst := rfl
  have hdirty : u.writer.dirty = s.writer.dirty := rfl
  have hqueue : u.writer.queue = s.writer.queue.tail := rfl
  have hwork := keeps_statusFirst u
  have hhead : u.statusFirst.writer.head = i := hwork .head (by decide)
  have hpublished : KeepsAllBut ([.head, .queue] ++ statusParts) (s.accessEnded (.headWrite i)) u.statusFirst :=
    .trans ((keeps_published i _).mono (by decide)) (hwork.mono (by decide))
  have htail : u.statusFirst.writer.tail = s.writer.tail := hwork .tail (by decide)
  have hattn : u.statusFirst.attn = (i != s.writer.tail) := by unfold State.attn; rw [hhead, htail]
  obtain ⟨hport, hread⟩ := port_memRead_of_keeps hpublished hw (v := word i.toNat) rfl
  rw [hstep]
  refine ⟨hport, hhead, hwork .queue (by decide), hattn, hread, fun off rest hd => ?status, fun r rest hd hq => ?report,
    fun hd hq => ?idle,
    .trans ((keeps_accessEnded _ s).mono (by decide)) (hpublished.mono (by decide))⟩
  case status =>
    rw [statusFirst_dirty (hdirty.trans hd)]
    exact ⟨rfl, rfl, rfl⟩
  case report =>
    rw [statusFirst_report (hdirty.trans hd) (hqueue.trans hq)]
    exact ⟨rfl, hd, rfl⟩
  case idle =>
    rw [statusFirst_idle (hdirty.trans hd) (hqueue.trans hq)]
    exact ⟨rfl, hd, rfl⟩

end Sys2Proof.Machine
end

section
/-!
PROOFS. The status block (11.5), and the end of a status write with the end of start-up (R124, R161 to R164): O47.
-/
namespace Sys2Proof.Machine

-- one theorem after another, as in the tests: side by side they take more threads than the memory limit allows
set_option Elab.async false

/-! ### Which word an offset shows (11.5) -/

theorem statusWord_area (s : State) (a : Fin 8) : s.statusWord (22 + a.val) = s.areaWord a := by
  have ha := a.isLt
  have hno : Fin.ofNat 8 (22 + a.val - 22) = a := finOfNat_val (by omega)
  unfold State.statusWord
  rw [if_neg (by omega), if_neg (by omega), if_neg (by omega), if_neg (by omega), if_neg (by omega), if_neg (by omega),
    if_pos (by omega), hno]

theorem statusWord_line (s : State) (l : Fin 24) : s.statusWord (30 + l.val) = s.lineWord l := by
  have hl := l.isLt
  have hno : Fin.ofNat 24 (30 + l.val - 30) = l := finOfNat_val (by omega)
  unfold State.statusWord
  rw [if_neg (by omega), if_neg (by omega), if_neg (by omega), if_neg (by omega), if_neg (by omega), if_neg (by omega),
    if_neg (by omega), if_pos (by omega), hno]

theorem statusWord_zone (s : State) (z : Fin 48) : s.statusWord (54 + z.val) = s.zoneWord z := by
  have hz := z.isLt
  have hno : Fin.ofNat 48 (54 + z.val - 54) = z := finOfNat_val (by omega)
  unfold State.statusWord
  rw [if_neg (by omega), if_neg (by omega), if_neg (by omega), if_neg (by omega), if_neg (by omega), if_neg (by omega),
    if_neg (by omega), if_neg (by omega), if_pos (by omega), hno]

theorem statusWord_unit (s : State) (u : Fin 4) {off k : Nat} (hk : k < 4) (h : off = 102 + 4 * u.val + k) :
    s.statusWord off = (s.unit u).statusWord k := by
  have hno : Fin.ofNat 4 ((off - 102) / 4) = u := finOfNat_val (by omega)
  have hword : (off - 102) % 4 = k := by omega
  unfold State.statusWord
  rw [if_neg (by omega), if_neg (by omega), if_neg (by omega), if_neg (by omega), if_neg (by omega), if_neg (by omega),
    if_neg (by omega), if_neg (by omega), if_neg (by omega), hno, hword]

/-! ### Which records are in use -/

section
variable {s : State} {p : Plan} (hl : s.loader.live = some p)
include hl

theorem lineInUse_live (l : Nat) : s.lineInUse l = decide (l < p.lineCount) := by
  unfold State.lineInUse
  rw [hl]
  rfl

theorem areaInUse_live (a : Nat) : s.areaInUse a = decide (a < p.areaCount) := by
  unfold State.areaInUse
  rw [hl]
  rfl

theorem zoneInUse_live (z : Nat) : s.zoneInUse z = decide (z < p.zoneCount) := by
  unfold State.zoneInUse
  rw [hl]
  rfl

end

theorem any_lt_false {live : Option Plan} {n : Nat} {count : Plan → Nat} (h : ∀ p, live = some p → count p ≤ n) :
    (live.any fun p => decide (n < count p)) = false := by
  cases live with
  | none => rfl
  | some p => exact decide_eq_false (Nat.not_lt.2 (h p rfl))

/-! ### The fields of the words (11.5) -/

theorem areaWord_inUse {s : State} {a : Fin 8} (h : s.areaInUse a.val = true) : s.areaWord a =
    word (sourceCode (s.area a).elected + 256 * sourceCode (s.area a).pin + 2147483648) := if_pos h

theorem areaWord_notInUse {s : State} {a : Fin 8} (h : s.areaInUse a.val = false) : s.areaWord a =
    word (255 + 256 * 255) := if_neg (by rw [h]; exact Bool.false_ne_true)

theorem lineWord_inUse {s : State} {l : Fin 24} (h : s.lineInUse l.val = true) : s.lineWord l =
    word (condCode (s.line l).cond + 2147483648) := if_pos h

theorem lineWord_notInUse {s : State} {l : Fin 24} (h : s.lineInUse l.val = false) : s.lineWord l = 0 :=
  if_neg (by rw [h]; exact Bool.false_ne_true)

theorem zoneWord_inUse {s : State} {z : Fin 48} (h : s.zoneInUse z.val = true) : s.zoneWord z =
    word (feedCode (s.guard z).state + 256 * flag (s.guard z).muted + 512 * flag (s.guard z).yielding +
      1024 * flag (s.guard z).proof + 65536 * flag (s.tap z).glide.isGliding +
      16777216 * flag (s.tap z).pendingTarget.isSome + 2147483648) := if_pos h

theorem zoneWord_notInUse {s : State} {z : Fin 48} (h : s.zoneInUse z.val = false) : s.zoneWord z = 0 :=
  if_neg (by rw [h]; exact Bool.false_ne_true)

theorem flag_isSome {α : Type} [DecidableEq α] (x : Option α) : flag x.isSome = if x = none then 0 else 1 := by
  cases x <;> rfl

/-- The first-hit fields of a unit's first word, its flag among them (R152). -/
def WatchUnit.hitBits (u : WatchUnit) : Nat :=
  match u.firstHit with
  | none => 0
  | some h => 65536 + 1048576 * masterCode h.master + 16777216 * dirCode h.isWrite

/-- R152: a unit's first word. -/
theorem unitWord_eq (u : WatchUnit) : u.statusWord 0 = word (flag u.on + 2 * kindsCode u.kinds + 16 * u.masters.toNat +
    256 * scopeCode u.scope + 4096 * actionCode u.action + u.hitBits) :=
  congrArg word <| by
    have hbits : 65536 * flag u.hitFlag + firstHitBits u.firstHit = u.hitBits := by
      unfold WatchUnit.hitFlag WatchUnit.hitBits
      cases u.firstHit with
      | none => rfl
      | some h => exact (Nat.add_assoc _ _ _).symm
    rw [← hbits, ← Nat.add_assoc]

/-- 11.5: every word shows its record, field by field. -/
theorem showsStatus (s : State) : ShowsStatus s where
  device := rfl
  loader := rfl
  head := rfl
  dropped := rfl
  store := by
    have hbusy : flag s.store.busy = if s.store.programming = none then 0 else 1 := flag_isSome _
    rw [← hbusy]
    rfl
  yieldLevel := rfl
  areaInUse p a hl ha := by
    rw [statusWord_area, areaWord_inUse ((areaInUse_live hl _).trans (decide_eq_true ha))]
    rfl
  areaNotInUse a h := by
    rw [statusWord_area, areaWord_notInUse (any_lt_false h)]
    rfl
  lineInUse p l hl hlt := by
    rw [statusWord_line, lineWord_inUse ((lineInUse_live hl _).trans (decide_eq_true hlt))]
    rfl
  lineNotInUse l h := by rw [statusWord_line, lineWord_notInUse (any_lt_false h)]
  zoneInUse p z hl hz := by
    rw [statusWord_zone, zoneWord_inUse ((zoneInUse_live hl _).trans (decide_eq_true hz)), flag_isSome]
    cases (s.tap z).glide <;> rfl
  zoneNotInUse z h := by rw [statusWord_zone, zoneWord_notInUse (any_lt_false h)]
  unit u := by
    rw [statusWord_unit s u (off := 102 + 4 * u.val) (k := 0) (by decide) rfl, unitWord_eq]
    unfold WatchUnit.hitBits
    cases (s.unit u).firstHit <;> rfl
  hits u := statusWord_unit s u (k := 1) (by decide) (by omega)
  hitAddress u := by
    rw [statusWord_unit s u (k := 2) (by decide) (by omega)]
    unfold WatchUnit.statusWord
    cases (s.unit u).firstHit <;> rfl
  hitData u := by
    rw [statusWord_unit s u (k := 3) (by decide) (by omega)]
    unfold WatchUnit.statusWord
    cases (s.unit u).firstHit with
    | none => rfl
    | some h => cases hd : h.data <;> simp [hd]

/-! ### The end of start-up (R124) -/

/-- R124: start-up has ended. -/
def State.started (s : State) : State :=
  ((s.setDevice .cold).request .started 0 (word (causeCode s.command.cause))
    (word (storeCondCode s.store.cond))).statusChange 16

theorem cuEndStartUp_ends {s : State} (hd : s.command.device = .starting) (hdirty : s.writer.dirty = [])
    (hw : s.writer.work = .free) (hc : s.store.cursor = 193) : cuEndStartUp s = s.started := by
  refine if_pos ⟨hd, ?_, decide_eq_true hc⟩
  unfold writerStartUpEnded
  rw [hdirty, hw]
  rfl

theorem cuEndStartUp_goesOn {s : State} (h : ¬ (s.command.device = .starting ∧ s.writer.dirty = [] ∧
    s.writer.work = .free ∧ s.store.cursor = 193)) : cuEndStartUp s = s := by
  refine if_neg fun ⟨hd, hw, hc⟩ => h ?_
  unfold writerStartUpEnded at hw
  rw [Bool.and_eq_true, List.isEmpty_iff, decide_eq_true_eq] at hw
  exact ⟨hd, hw.1, hw.2, of_decide_eq_true hc⟩

theorem device_started (s : State) : s.started.command.device = .cold := by
  unfold State.started
  rw [statusChange_command, request_command]
  rfl

theorem marked_started (s : State) : Marked s.started 16 := marked_statusChange _ _

theorem reported_started (s : State) :
    Reported s s.started .started 0 (word (causeCode s.command.cause)) (word (storeCondCode s.store.cond)) :=
  Reported.statusChange (reported_request s (s.setDevice .cold) _ _ _ _ rfl rfl) _

theorem keeps_setDevice (d : Device) (s : State) : KeepsAllBut [.device] s (s.setDevice d) := fun q hq => by
  cases q
  case device => exact absurd (by decide) hq
  all_goals rfl

theorem keeps_started (s : State) : KeepsAllBut (.device :: reportParts) s s.started :=
  ((keeps_setDevice .cold s).mono (by decide) : KeepsAllBut (.device :: reportParts) s _).request.statusChange

theorem keeps_cuEndStartUp (s : State) : KeepsAllBut (.device :: reportParts) s (cuEndStartUp s) := by
  unfold cuEndStartUp
  split
  · exact keeps_started s
  · exact .refl s

/-! ### A status write (R162, R163) -/

theorem exec_statusWriteComplete {s : State} {off : Nat} {v : Word} (hi : s.path.inHand = none)
    (hp : s.path.port = some (.own (.statusWrite off v))) :
    exec .statusWriteComplete s = .next (rwStatusDone (s.accessEnded (.statusWrite off v))) :=
  congrArg Host.Outcome.next (ownComplete_between hi hp rfl)

/-- RW has ended its work. -/
def State.rested (s : State) : State := s.setWriter { s.writer with work := .free }

theorem keeps_rested (s : State) : KeepsAllBut [.work] s s.rested := fun q hq => by
  cases q
  case work => exact absurd (by decide) hq
  all_goals rfl

theorem rwStatusDone_report {s : State} {r : Report} {rest : List Report} (hd : s.command.device ≠ .starting)
    (hq : s.writer.queue = r :: rest) : rwStatusDone s = s.rested.reporting r := by
  have hchoice : s.rested.chooseWork = s.rested.reporting r := chooseWork_report rfl hd hq
  exact (congrArg cuEndStartUp hchoice).trans (cuEndStartUp_goesOn fun h => hd h.1)

theorem rwStatusDone_status {s : State} {off : Nat} {rest : List Nat}
    (hd : s.command.device = .starting ∨ s.writer.queue = []) (hdirty : s.writer.dirty = off :: rest) :
    rwStatusDone s = s.rested.showing off rest := by
  have hchoice : s.rested.chooseWork = s.rested.showing off rest :=
    (chooseWork_status (s := s.rested) rfl hd).trans (issueStatus_cons (s := s.rested) hdirty)
  refine (congrArg cuEndStartUp hchoice).trans (cuEndStartUp_goesOn fun h => ?_)
  obtain ⟨-, -, hw, -⟩ := h
  cases hw

theorem rwStatusDone_idle {s : State} (hd : s.command.device = .starting ∨ s.writer.queue = [])
    (hdirty : s.writer.dirty = []) : rwStatusDone s = cuEndStartUp s.rested :=
  congrArg cuEndStartUp ((chooseWork_status (s := s.rested) rfl hd).trans (issueStatus_nil (s := s.rested) hdirty))

/-- Settles O47: by what RW has to do next, a report, a status word or nothing, and in the last case by whether start-up
ends. -/
theorem statusWriteCompletes : Obligations.StatusWriteCompletes := by
  refine ⟨showsStatus, fun s off v hw hi _ hp => ⟨_, exec_statusWriteComplete hi hp, ?_⟩⟩
  let u := s.accessEnded (.statusWrite off v)
  have hu : KeepsAllBut [.port, .mem] s u := keeps_accessEnded _ s
  have hrest : KeepsAllBut [.port, .mem, .work] s u.rested := .trans (hu.mono (by decide)) ((keeps_rested u).mono (by decide))
  have hkeep : KeepsAllBut (.device :: reportParts) u (rwStatusDone u) := by
    refine .trans ((keeps_rested u).mono (by decide)) (.trans ((keeps_chooseWork _).mono (by decide)) ?_)
    exact keeps_cuEndStartUp _
  obtain ⟨hport, hread⟩ := port_memRead_of_keeps hkeep hw (v := v) rfl
  refine ⟨hport, hread, fun hd r rest hq => ?report, fun hd k rest hk => ?status, fun hd hq hk => ?idle,
    fun hd hk hc => ?waits, fun hd hk hc => ?ends⟩
  case report =>
    rw [rwStatusDone_report (s := u) hd hq]
    exact ⟨rfl, rfl, .trans (hrest.mono (by decide)) ((keeps_reporting _ r).mono (by decide))⟩
  case status =>
    rw [rwStatusDone_status (s := u) hd hk]
    exact ⟨rfl, rfl, rfl, .trans (hrest.mono (by decide)) ((keeps_showing _ k rest).mono (by decide))⟩
  case idle =>
    rw [rwStatusDone_idle (s := u) (.inr hq) hk, cuEndStartUp_goesOn (s := u.rested) fun h => hd h.1]
    exact ⟨rfl, hrest⟩
  case waits =>
    rw [rwStatusDone_idle (s := u) (.inl hd) hk, cuEndStartUp_goesOn (s := u.rested) fun h => hc h.2.2.2]
    exact ⟨rfl, hrest⟩
  case ends =>
    rw [rwStatusDone_idle (s := u) (.inl hd) hk, cuEndStartUp_ends (s := u.rested) hd hk rfl hc]
    have hkeeps : KeepsAllBut ([.port, .mem, .device] ++ reportParts) s u.rested.started :=
      .trans (hrest.mono (by decide)) ((keeps_started _).mono (by decide))
    exact ⟨device_started _, marked_started _, Asks.source (reported_started u.rested) rfl rfl rfl rfl rfl, hkeeps⟩

end Sys2Proof.Machine
end

section
/-!
PROOFS. The safety store starts up (R124, R167, R168): O48.
-/
namespace Sys2Proof.Machine

-- one theorem after another, as in the tests: side by side they take more threads than the memory limit allows
set_option Elab.async false

/-! ### Image writes (R168) -/

theorem ssIssueImage_next {s : State} {k : Fin 193} (h : s.store.cursor = k.val) :
    ssIssueImage s = s.issue .ss [.imageWrite k s.store.words[k.val]] := by
  have hk : s.store.cursor < 193 := h ▸ k.isLt
  have hfin : (⟨s.store.cursor, hk⟩ : Fin 193) = k := Fin.ext h
  unfold ssIssueImage
  rw [dif_pos hk, hfin]
  simp only [h]

theorem ssIssueImage_end {s : State} (h : 193 ≤ s.store.cursor) : ssIssueImage s = s :=
  dif_neg (Nat.not_lt.2 h)

theorem keeps_issueSS (l : List OwnAccess) (s : State) : KeepsAllBut [.ownSS] s (s.issue .ss l) :=
  (KeepsAllBut.refl s).issueSS

/-- SS decides the store's condition at start-up (R167). -/
def State.storeChecked (s : State) : State :=
  (s.setStore { s.store with cond := s.store.checkResult, checkPending := false }).statusChange 20

theorem keeps_storeChecked (s : State) : KeepsAllBut ([.storeCond, .checkPending] ++ statusParts) s s.storeChecked := by
  refine KeepsAllBut.statusChange fun q hq => ?_
  cases q
  case storeCond => exact absurd (by decide) hq
  case checkPending => exact absurd (by decide) hq
  all_goals rfl

theorem store_storeChecked (s : State) :
    s.storeChecked.store = { s.store with cond := s.store.checkResult, checkPending := false } :=
  statusChange_store _ _

theorem exec_startUpCheck {s : State} (h : s.betweenWords) : exec .startUpCheck s = .next (ssStartUpCheck s) :=
  congrArg Host.Outcome.next (arrive_between h .startUpCheck)

theorem ssStartUpCheck_first {s : State} (hp : s.store.checkPending = true) (hc : s.store.cursor = 0) :
    ssStartUpCheck s = s.storeChecked.issue .ss [.imageWrite 0 s.store.words[0]] := by
  have hstore := store_storeChecked s
  have hcursor : s.storeChecked.store.cursor = (0 : Fin 193).val := by rw [hstore]; exact hc
  have hfirst := ssIssueImage_next hcursor
  rw [hstore] at hfirst
  exact (if_pos hp).trans hfirst

/-! ### The end of an image write (R168) -/

/-- SS counts the image word written. -/
def State.imaged (s : State) (i : Fin 193) : State := s.setStore { s.store with cursor := i.val + 1 }

theorem keeps_imaged (i : Fin 193) (s : State) : KeepsAllBut [.imageCursor] s (s.imaged i) := fun q hq => by
  cases q
  case imageCursor => exact absurd (by decide) hq
  all_goals rfl

theorem exec_imageWriteComplete {s : State} {i : Fin 193} {v : Word} (hi : s.path.inHand = none)
    (hp : s.path.port = some (.own (.imageWrite i v))) :
    exec .imageWriteComplete s = .next (cuEndStartUp (ssIssueImage ((s.accessEnded (.imageWrite i v)).imaged i))) :=
  congrArg Host.Outcome.next (ownComplete_between hi hp rfl)

theorem keeps_ssIssueImage (s : State) : KeepsAllBut [.ownSS] s (ssIssueImage s) := by
  unfold ssIssueImage
  split
  · exact keeps_issueSS _ s
  · exact .refl s

/-- Settles O48: the check begins the image writes, each that ends begins the next, and the last may end start-up. -/
theorem storeStartsUp : Obligations.StoreStartsUp := by
  refine ⟨fun s hb hp hc => ⟨_, exec_startUpCheck hb, ?check⟩,
    fun s i v hw hi hp => ⟨_, exec_imageWriteComplete hi hp, ?image⟩⟩
  case check =>
    rw [ssStartUpCheck_first hp hc]
    have hmark : Marked s.storeChecked 20 := marked_statusChange _ _
    have hown : s.storeChecked.path.ownSS = s.path.ownSS := keeps_storeChecked s .ownSS (by decide)
    exact ⟨hmark.congr rfl rfl, store_storeChecked s, congrArg (· ++ [OwnAccess.imageWrite 0 s.store.words[0]]) hown,
      .trans ((keeps_storeChecked s).mono (by decide)) ((keeps_issueSS _ _).mono (by decide))⟩
  case image =>
    let u := (s.accessEnded (.imageWrite i v)).imaged i
    have hu : KeepsAllBut [.port, .mem, .imageCursor] s u :=
      .trans ((keeps_accessEnded _ s).mono (by decide)) ((keeps_imaged i _).mono (by decide))
    have hend : KeepsAllBut (.ownSS :: .device :: reportParts) u (cuEndStartUp (ssIssueImage u)) :=
      .trans ((keeps_ssIssueImage u).mono (by decide)) ((keeps_cuEndStartUp _).mono (by decide))
    have hall : KeepsAllBut (.imageCursor :: .ownSS :: .device :: reportParts) (s.accessEnded (.imageWrite i v))
        (cuEndStartUp (ssIssueImage u)) := .trans ((keeps_imaged i _).mono (by decide)) (hend.mono (by decide))
    obtain ⟨hport, hread⟩ := port_memRead_of_keeps hall hw (v := v) rfl
    refine ⟨hport, hend .imageCursor (by decide), hread, fun k hk => ?next, fun h192 hno => ?last,
      fun h192 hd hdirty hfree => ?ends⟩
    case next =>
      have hcursor : u.store.cursor = k.val := hk.symm
      rw [ssIssueImage_next (s := u) hcursor, cuEndStartUp_goesOn]
      · exact ⟨rfl, .trans (hu.mono (by decide)) ((keeps_issueSS _ u).mono (by decide))⟩
      · rintro ⟨-, -, -, hc⟩
        have hc' : i.val + 1 = 193 := hc
        omega
    case last =>
      rw [ssIssueImage_end (s := u) (by show 193 ≤ i.val + 1; omega), cuEndStartUp_goesOn]
      · exact hu
      · rintro ⟨hd, hdirty, hfree, -⟩
        exact hno ⟨hd, hdirty, hfree⟩
    case ends =>
      rw [ssIssueImage_end (s := u) (by show 193 ≤ i.val + 1; omega),
        cuEndStartUp_ends (s := u) hd hdirty hfree (congrArg (· + 1) h192)]
      exact ⟨device_started _, marked_started _, Asks.source (reported_started u) rfl rfl rfl rfl rfl,
        .trans (hu.mono (by decide)) ((keeps_started u).mono (by decide))⟩

end Sys2Proof.Machine
end

section
/-!
PROOFS. Permits and programming requests (R170 to R172, R176): O49 and O50.
-/
namespace Sys2Proof.Machine

-- one theorem after another, as in the tests: side by side they take more threads than the memory limit allows
set_option Elab.async false

/-! ### What becomes of the word leaves the owner's work (R89) -/

section
variable {s t : State} (w : UpWord) (x : Treatment)

theorem store_startTreatment (s : State) : (startTreatment w [] x s).store = s.store := by cases x <;> rfl

theorem Marked.startTreatment {off : Nat} (h : Marked s off) : Marked (startTreatment w [] x s) off := by
  cases x
  case access => exact h.congr rfl rfl
  case complete => exact h.congr rfl rfl

theorem Reported.startTreatment {k : ReportKind} {n : Nat} {a b : Word} (h : Reported s t k n a b) :
    Reported s (startTreatment w [] x t) k n a b := by
  cases x
  case access => exact h.record
  case complete => exact h.record

end

/-! ### A permit request (R170) -/

/-- The permit has changed. -/
def State.permitSet (s : State) (x : Option (Fin 193)) : State := s.setStore { s.store with permit := x }

theorem keeps_permitSet (x : Option (Fin 193)) (s : State) : KeepsAllBut [.permit] s (s.permitSet x) := fun q hq => by
  cases q
  case permit => exact absurd (by decide) hq
  all_goals rfl

theorem ssPermitRequest_busy {s : State} {i : Fin 193} {v : Word} (n : Word) (h : s.store.programming = some (i, v)) :
    ssPermitRequest n s = s.request .storeRefused 1 n (word i.val) := by
  unfold ssPermitRequest
  rw [h]
  rfl

theorem ssPermitRequest_range {s : State} {n : Word} (h : s.store.programming = none) (hn : 192 < n.toNat) :
    ssPermitRequest n s =
      if s.store.permit.isSome then
        ((s.permitSet none).request .storeRefused 2 n (word (permitCode s.store.permit))).statusChange 20
      else (s.permitSet none).request .storeRefused 2 n (word (permitCode s.store.permit)) := by
  unfold ssPermitRequest
  rw [h]
  exact dif_neg (by omega)

theorem ssPermitRequest_given {s : State} {n : Word} {i : Fin 193} (h : s.store.programming = none)
    (hn : n.toNat = i.val) :
    ssPermitRequest n s = if s.store.permit = some i then s else (s.permitSet (some i)).statusChange 20 := by
  have hlt : n.toNat < 193 := by omega
  have hi : (⟨n.toNat, hlt⟩ : Fin 193) = i := Fin.ext hn
  unfold ssPermitRequest
  rw [h]
  dsimp only
  rw [dif_pos hlt, hi]
  rfl

theorem exec_permitRequest {s : State} {n : Word} (ht : s.takes (s.coreWord 10 n)) :
    exec (.permitRequest n) s = .next (startTreatment (s.coreWord 10 n) [] (plainTreatment (s.coreWord 10 n))
      (ssPermitRequest n (s.looked (s.coreWord 10 n)))) :=
  congrArg Host.Outcome.next (planAreaCommand_snooped (by omega) ht (by decide) (by omega))

/-- A permit request is stored like every word that its owner takes as it passes. -/
theorem stores_permitRequest {s : State} {n : Word} {u : State} {parts : List Part}
    (hk : KeepsAllBut parts (s.looked (s.coreWord 10 n)) u) :
    Stores s (startTreatment (s.coreWord 10 n) [] (plainTreatment (s.coreWord 10 n)) u) (s.coreWord 10 n) n parts :=
  stores_plain _ _ _ _ _ _ (hk.mono fun _ hq => List.mem_cons_of_mem _ hq)

/-- Settles O49: by whether a programming is under way and whether the value names a store word. -/
theorem permitRequestTaken : Obligations.PermitRequestTaken := by
  intro s n ht w permit old
  have hstore : (s.looked w).store = s.store := awLook_store w s
  refine ⟨_, exec_permitRequest ht, fun i v hp => ?busy, fun hp hn => ?range, fun i hp hn => ?given⟩
  case busy =>
    rw [ssPermitRequest_busy n ((congrArg SafetyStore.programming hstore).trans hp)]
    exact ⟨(store_startTreatment ..).trans ((request_store ..).trans hstore),
      (reported_request _ _ _ _ _ _ rfl rfl).startTreatment _ _,
      stores_permitRequest (KeepsAllBut.refl _).request⟩
  case range =>
    have hreport : Reported (s.looked w) (((s.looked w).permitSet none).request .storeRefused 2 n
        (word (permitCode s.store.permit))) .storeRefused 2 n (word old) := reported_request _ _ _ _ _ _ rfl rfl
    have hkeep : KeepsAllBut (.permit :: reportParts) (s.looked w) (((s.looked w).permitSet none).request .storeRefused 2 n
        (word (permitCode s.store.permit))) := ((keeps_permitSet none _).mono (by decide)).request
    have hpermit : (((s.looked w).permitSet none).request .storeRefused 2 n (word (permitCode s.store.permit))).store =
        { s.store with permit := none } := by
      rw [request_store, ← hstore]
      rfl
    rw [ssPermitRequest_range ((congrArg SafetyStore.programming hstore).trans hp) hn, hstore]
    cases hs : s.store.permit with
    | none =>
      rw [hs] at hreport hkeep hpermit
      exact ⟨(store_startTreatment ..).trans hpermit, hreport.startTreatment _ _, fun h => absurd hs h, stores_permitRequest hkeep⟩
    | some k =>
      rw [hs] at hreport hkeep hpermit
      exact ⟨(store_startTreatment ..).trans ((statusChange_store ..).trans hpermit),
        (hreport.statusChange 20).startTreatment _ _, fun _ => (marked_statusChange _ _).startTreatment _ _, stores_permitRequest hkeep.statusChange⟩
  case given =>
    rw [ssPermitRequest_given ((congrArg SafetyStore.programming hstore).trans hp) hn, hstore]
    by_cases hs : s.store.permit = some i
    · rw [if_pos hs, if_pos hs]
      have hsame : s.store = { s.store with permit := some i } :=
        congrArg (fun x => { s.store with permit := x }) hs
      exact ⟨(store_startTreatment ..).trans (hstore.trans hsame), fun h => absurd hs h, stores_permitRequest (.refl _)⟩
    · rw [if_neg hs, if_neg hs]
      have hset : (((s.looked w).permitSet (some i)).statusChange 20).store = { s.store with permit := some i } := by
        rw [statusChange_store, ← hstore]
        rfl
      exact ⟨(store_startTreatment ..).trans hset, fun _ => (marked_statusChange _ _).startTreatment _ _,
        stores_permitRequest (((keeps_permitSet (some i) _).mono (by decide)).statusChange)⟩

/-! ### Writes to the store image (R171, R172) -/

theorem exec_programmingRequest (i : Fin 193) (v : Word) (s : State) :
    exec (.programmingRequest i v) s = .next (planAreaCommand .core (512 + i.val) v s) := rfl

theorem exec_imageForeignWrite (m : Master) (i : Fin 193) (v : Word) (s : State) :
    exec (.imageForeignWrite m i v) s = .next (planAreaCommand m (512 + i.val) v s) := rfl

theorem ssImageWord_foreign {m : Master} (hm : m ≠ .core) (i : Fin 193) (v : Word) (a : Addr) (s : State) :
    ssImageWord i v ⟨m, a, .write v⟩ s = (s.foreignWrite 255 ⟨m, a, .write v⟩, droppedTreatment) := by
  cases m
  case core => exact absurd rfl hm
  all_goals rfl

section
variable {s : State} {i : Fin 193} {v : Word} {w : UpWord}

theorem ssProgramRequest_busy {j : Fin 193} {x : Word} (h : s.store.programming = some (j, x)) :
    ssProgramRequest i v w s = (s.request .storeRefused 5 (word i.val) (word j.val), droppedTreatment) := by
  unfold ssProgramRequest
  rw [h]
  rfl

theorem ssProgramRequest_noPermit (h : s.store.programming = none) (hp : s.store.permit = none) :
    ssProgramRequest i v w s = (s.request .storeRefused 3 (word i.val) v, droppedTreatment) := by
  unfold ssProgramRequest
  rw [h, hp]
  rfl

theorem ssProgramRequest_wrongWord {n : Fin 193} (h : s.store.programming = none) (hp : s.store.permit = some n)
    (hn : n ≠ i) : ssProgramRequest i v w s =
      (((s.permitSet none).request .storeRefused 4 (word i.val) (word n.val)).statusChange 20, droppedTreatment) := by
  unfold ssProgramRequest
  rw [h, hp]
  exact if_neg hn

/-- R171: the programming of a word begins, and its permit is used up. -/
def State.programmingBegun (s : State) (i : Fin 193) (v : Word) : State :=
  s.setStore { s.store with permit := none, programming := some (i, v) }

theorem keeps_programmingBegun (i : Fin 193) (v : Word) (s : State) :
    KeepsAllBut [.permit, .programming] s (s.programmingBegun i v) := fun q hq => by
  cases q
  case permit => exact absurd (by decide) hq
  case programming => exact absurd (by decide) hq
  all_goals rfl

theorem ssProgramRequest_begins (h : s.store.programming = none) (hp : s.store.permit = some i) :
    ssProgramRequest i v w s = ((s.programmingBegun i v).statusChange 20, plainTreatment w) := by
  unfold ssProgramRequest
  rw [h, hp]
  exact if_pos rfl

end

/-- Settles O50: by the first line of the table of R171 that applies; a write of another master is a foreign write. -/
theorem imageWritesTaken : Obligations.ImageWritesTaken := by
  refine ⟨?core, ?foreign⟩
  case core =>
    intro s i v ht w
    refine ⟨_, exec_programmingRequest i v s, ?_⟩
    have hstore : (s.looked w).store = s.store := awLook_store w s
    have htreat : planAreaCommand .core (512 + i.val) v s = startTreatment w []
        (ssProgramRequest i v w (s.looked w)).2 (ssProgramRequest i v w (s.looked w)).1 := planAreaCommand_image i ht
    rw [htreat]
    have hprog {x : Option (Fin 193 × Word)} (h : s.store.programming = x) : (s.looked w).store.programming = x :=
      (congrArg SafetyStore.programming hstore).trans h
    have hpermit {x : Option (Fin 193)} (h : s.store.permit = x) : (s.looked w).store.permit = x :=
      (congrArg SafetyStore.permit hstore).trans h
    refine ⟨fun j x hp => ?busy, fun hp hn => ?noPermit, fun n hp hn hne => ?wrong, fun hp hn => ?begins⟩
    case busy =>
      rw [ssProgramRequest_busy (hprog hp)]
      exact ⟨(reported_request _ _ _ _ _ _ rfl rfl).startTreatment _ _,
        dropped_of _ _ _ _ _ _ ((KeepsAllBut.refl _).request)⟩
    case noPermit =>
      rw [ssProgramRequest_noPermit (hprog hp) (hpermit hn)]
      exact ⟨(reported_request _ _ _ _ _ _ rfl rfl).startTreatment _ _,
        dropped_of _ _ _ _ _ _ ((KeepsAllBut.refl _).request)⟩
    case wrong =>
      rw [ssProgramRequest_wrongWord (hprog hp) (hpermit hn) hne]
      have hset : ((((s.looked w).permitSet none).request .storeRefused 4 (word i.val) (word n.val)).statusChange 20).store =
          { s.store with permit := none } := by
        rw [statusChange_store, request_store, ← hstore]
        rfl
      exact ⟨(store_startTreatment ..).trans hset, (marked_statusChange _ _).startTreatment _ _,
        ((reported_request (s.looked w) ((s.looked w).permitSet none) _ _ _ _ rfl rfl).statusChange 20).startTreatment _ _,
        dropped_of _ _ _ _ _ _ (((keeps_permitSet none _).mono (by decide)).request.statusChange)⟩
    case begins =>
      rw [ssProgramRequest_begins (hprog hp) (hpermit hn)]
      have hset : (((s.looked w).programmingBegun i v).statusChange 20).store =
          { s.store with permit := none, programming := some (i, v) } := by
        rw [statusChange_store, ← hstore]
        rfl
      exact ⟨(store_startTreatment ..).trans hset, (marked_statusChange _ _).startTreatment _ _,
        stores_plain _ _ _ _ _ _ (((keeps_programmingBegun i v _).mono (by decide)).statusChange)⟩
  case foreign =>
    intro s m i v w ht hm
    refine ⟨_, exec_imageForeignWrite m i v s, ?_⟩
    rw [planAreaCommand_image i ht, ssImageWord_foreign hm]
    exact ⟨(reported_request _ _ _ _ _ _ rfl rfl).startTreatment _ _,
      dropped_of _ _ _ _ _ _ ((KeepsAllBut.refl _).foreignWrite)⟩

end Sys2Proof.Machine
end

section
/-!
PROOFS. The completion of a programming (R70, R83, R174, R175): O51.
-/
namespace Sys2Proof.Machine

-- one theorem after another, as in the tests: side by side they take more threads than the memory limit allows
set_option Elab.async false

/-! ### Changes of the effective entries (R70, R83) -/

/-- What of a guard record its status word shows of a change of entries. -/
def GuardRec.Shown (g g' : GuardRec) : Prop := g'.state ≠ g.state ∨ g'.yielding ≠ g.yielding

theorem zcEntryChange_hidden {old : SafetyStore} {z : Fin 48} {s : State}
    (h : ¬ (s.guard z).Shown ((s.guard z).entriesChanged (old.effective z) (s.store.effective z) s.yieldLevel)) :
    zcEntryChange old z s =
      s.setGuard z ((s.guard z).entriesChanged (old.effective z) (s.store.effective z) s.yieldLevel) := by
  unfold GuardRec.Shown at h
  push Not at h
  exact if_pos h

theorem zcEntryChange_shown {old : SafetyStore} {z : Fin 48} {s : State}
    (h : (s.guard z).Shown ((s.guard z).entriesChanged (old.effective z) (s.store.effective z) s.yieldLevel)) :
    zcEntryChange old z s =
      (s.setGuard z ((s.guard z).entriesChanged (old.effective z) (s.store.effective z) s.yieldLevel)).statusChange
        (zoneOffset z) :=
  if_neg fun hc => h.elim (fun hs => hs hc.1) (fun hy => hy hc.2)

theorem guard_zcEntryChange (old : SafetyStore) (z k : Fin 48) (s : State) : (zcEntryChange old z s).guard k =
    if k = z then (s.guard z).entriesChanged (old.effective z) (s.store.effective z) s.yieldLevel else s.guard k := by
  by_cases h : (s.guard z).Shown ((s.guard z).entriesChanged (old.effective z) (s.store.effective z) s.yieldLevel)
  · rw [zcEntryChange_shown h, guard_statusChange, guard_setGuard]
  · rw [zcEntryChange_hidden h, guard_setGuard]

theorem Marked.zcEntryChange {s : State} {o : Nat} (h : Marked s o) (old : SafetyStore) (z : Fin 48) :
    Marked (zcEntryChange old z s) o := by
  by_cases hs : (s.guard z).Shown ((s.guard z).entriesChanged (old.effective z) (s.store.effective z) s.yieldLevel)
  · rw [zcEntryChange_shown hs]
    exact (h.setGuard z _).statusChange _
  · rw [zcEntryChange_hidden hs]
    exact h.setGuard z _

/-- What a change of entries depends on besides the guard records: SS's store and the level of YIELD. -/
def SameEntries (s u : State) : Prop := u.store = s.store ∧ u.yieldLevel = s.yieldLevel

theorem SameEntries.zcEntryChange {s u : State} (h : SameEntries s u) (old : SafetyStore) (z : Fin 48) :
    SameEntries s (zcEntryChange old z u) := by
  have hk : KeepsAllBut (.guards :: statusParts) u (Machine.zcEntryChange old z u) := (KeepsAllBut.refl u).zcEntryChange
  exact ⟨(store_of_keeps hk).trans h.1, Eq.trans (hk .yieldLevel (by decide)) h.2⟩

section
variable {zs : List (Fin 48)} (hn : zs.Nodup) (old : SafetyStore)
include hn

theorem guard_entryChanges (s : State) (k : Fin 48) : (forEach zs (zcEntryChange old) s).guard k =
    if k ∈ zs then (s.guard k).entriesChanged (old.effective k) (s.store.effective k) s.yieldLevel else s.guard k :=
  forEach_record State.guard (SameEntries s)
    (fun z g => g.entriesChanged (old.effective z) (s.store.effective z) s.yieldLevel) (zcEntryChange old)
    (fun z u hu => hu.zcEntryChange old z)
    (fun z u hu => by
      obtain ⟨hstore, hlevel⟩ := hu
      rw [guard_zcEntryChange, if_pos rfl, hstore, hlevel])
    (fun z k u _ hk => by rw [guard_zcEntryChange, if_neg hk]) zs hn s ⟨rfl, rfl⟩ k

theorem marked_entryChanges {s : State} {k : Fin 48} (h : (s.guard k).Shown ((forEach zs (zcEntryChange old) s).guard k)) :
    Marked (forEach zs (zcEntryChange old) s) (54 + k.val) := by
  rw [guard_entryChanges hn] at h
  by_cases hk : k ∈ zs
  · rw [if_pos hk] at h
    refine forEach_event State.guard (SameEntries s) (Marked · (54 + k.val))
      (fun g => g.Shown (g.entriesChanged (old.effective k) (s.store.effective k) s.yieldLevel)) (zcEntryChange old)
      (fun z u hu => hu.zcEntryChange old z) (fun z k u _ hk => by rw [guard_zcEntryChange, if_neg hk])
      (fun z u hu => hu.zcEntryChange old z) zs hn s ⟨rfl, rfl⟩ k hk h (fun u hu hs => ?_)
    obtain ⟨hstore, hlevel⟩ := hu
    rw [zcEntryChange_shown (by rw [hstore, hlevel]; exact hs)]
    exact marked_statusChange _ _
  · rw [if_neg hk] at h
    exact h.elim (fun hs => absurd rfl hs) (fun hy => absurd rfl hy)

end

/-! ### A word programmed (R174, R175) -/

/-- SS has programmed a word and found a condition, and ZC has taken the change of these zones' entries. -/
def State.wordProgrammed (s : State) (i : Fin 193) (v : Word) (c : StoreCond) (zs : List (Fin 48)) : State :=
  forEach zs (zcEntryChange s.store) ((s.setStore { s.store.programmed i v with cond := c }).statusChange 20)

section
variable (s : State) (i : Fin 193) (v : Word) (c : StoreCond) (zs : List (Fin 48))

theorem keeps_wordProgrammed :
    KeepsAllBut (.words :: .storeCond :: .programming :: .guards :: statusParts) s (s.wordProgrammed i v c zs) := by
  have hset : KeepsAllBut (.words :: .storeCond :: .programming :: .guards :: statusParts) s
      (s.setStore { s.store.programmed i v with cond := c }) := fun q hq => by
    cases q
    case words => exact absurd (by decide) hq
    case storeCond => exact absurd (by decide) hq
    case programming => exact absurd (by decide) hq
    all_goals rfl
  exact .forEach _ (fun _ _ hu => hu.zcEntryChange) hset.statusChange

theorem sameEntries_wordProgrammed :
    SameEntries (s.setStore { s.store.programmed i v with cond := c }) (s.wordProgrammed i v c zs) :=
  forEach_keeps (SameEntries _) zs (fun z _ _ hu => hu.zcEntryChange _ z)
    ⟨statusChange_store _ _, statusChange_yieldLevel _ _⟩

theorem store_wordProgrammed : (s.wordProgrammed i v c zs).store = { s.store.programmed i v with cond := c } :=
  (sameEntries_wordProgrammed s i v c zs).1

theorem marked20_wordProgrammed : Marked (s.wordProgrammed i v c zs) 20 :=
  forEach_keeps (Marked · 20) zs (fun z _ _ hu => hu.zcEntryChange _ z) (marked_statusChange _ _)

theorem asks_wordProgrammed : AsksAt s.command.lastStamp s [] (s.wordProgrammed i v c zs) := by
  have hk := keeps_wordProgrammed s i v c zs
  exact ⟨hk .lastStamp (by decide), asks_nil _ (hk .head (by decide)) (hk .tail (by decide)) (hk .queue (by decide))
    (hk .dropped (by decide)) (hk .total (by decide))⟩

variable {zs} in
theorem guard_wordProgrammed (hn : zs.Nodup) (z : Fin 48) : (s.wordProgrammed i v c zs).guard z =
    if z ∈ zs then (s.guard z).entriesChanged (s.store.effective z)
      (({ s.store.programmed i v with cond := c } : SafetyStore).effective z) s.yieldLevel
    else s.guard z := by
  unfold State.wordProgrammed
  rw [guard_entryChanges hn, guard_statusChange, statusChange_store, statusChange_yieldLevel]
  rfl

variable {zs} in
theorem marked_wordProgrammed (hn : zs.Nodup) {z : Fin 48} (h : (s.guard z).Shown ((s.wordProgrammed i v c zs).guard z)) :
    Marked (s.wordProgrammed i v c zs) (54 + z.val) := by
  refine marked_entryChanges hn _ ?_
  rw [guard_statusChange]
  exact h

end

/-! ### Which zones' entries change -/

/-- R174: the zone of an entry word, if the entries count and it is in use. -/
def entryZones (s : State) (i : Fin 193) : List (Fin 48) :=
  if s.store.cond ≠ .invalid ∧ s.zoneInUse (entryZone i).val = true then [entryZone i] else []

theorem mem_entryZones {s : State} {i : Fin 193} (hi : i.val ≤ 191) (z : Fin 48) : z ∈ entryZones s i ↔
    s.store.cond ≠ .invalid ∧ z.val = i.val / 4 ∧ s.zoneInUse z.val = true := by
  have hval : (entryZone i).val = i.val / 4 := Nat.mod_eq_of_lt (by omega)
  have hz : z = entryZone i ↔ z.val = i.val / 4 := by rw [← hval, Fin.ext_iff]
  unfold entryZones
  by_cases h : s.store.cond ≠ .invalid ∧ s.zoneInUse (entryZone i).val = true
  · rw [if_pos h, List.mem_singleton]
    refine ⟨fun e => ⟨h.1, hz.1 e, by rw [e]; exact h.2⟩, fun e => hz.2 e.2.1⟩
  · rw [if_neg h]
    refine ⟨fun e => absurd e List.not_mem_nil, fun ⟨h1, h2, h3⟩ => absurd ⟨h1, ?_⟩ h⟩
    rw [← hz.2 h2]
    exact h3

theorem nodup_entryZones (s : State) (i : Fin 193) : (entryZones s i).Nodup := by
  unfold entryZones
  split
  · exact List.nodup_singleton _
  · exact List.nodup_nil

/-- R175: every zone in use, if the entries begin or cease to count. -/
def checkZones (s : State) (c : StoreCond) : List (Fin 48) :=
  if s.store.cond.trusted = c.trusted then [] else (s.loader.live.map Plan.zonesInUse).getD []

theorem trusted_ne_iff (a b : StoreCond) : a.trusted ≠ b.trusted ↔ (a = .invalid ↔ b ≠ .invalid) := by
  cases a <;> cases b <;> decide

theorem mem_checkZones (s : State) (c : StoreCond) (z : Fin 48) : z ∈ checkZones s c ↔
    (s.store.cond = .invalid ↔ c ≠ .invalid) ∧ s.zoneInUse z.val = true := by
  have hin : z ∈ (s.loader.live.map Plan.zonesInUse).getD [] ↔ s.zoneInUse z.val = true := by
    unfold State.zoneInUse
    cases s.loader.live with
    | none => simp
    | some p => simp [mem_zonesInUse]
  rw [← trusted_ne_iff, ← hin]
  unfold checkZones
  by_cases h : s.store.cond.trusted = c.trusted
  · simp [h]
  · simp [h]

theorem nodup_checkZones (s : State) (c : StoreCond) : (checkZones s c).Nodup := by
  unfold checkZones
  split
  · exact List.nodup_nil
  · cases s.loader.live with
    | none => exact List.nodup_nil
    | some p => exact nodup_zonesInUse p

/-! ### The two completions -/

theorem zoneInUse_stored (t : SafetyStore) (off z : Nat) (s : State) :
    ((s.setStore t).statusChange off).zoneInUse z = s.zoneInUse z := by
  unfold State.zoneInUse
  rw [statusChange_loader]
  rfl

theorem ssEntryProgrammed_eq (i : Fin 193) (v : Word) (s : State) : ssEntryProgrammed i v s =
    (s.wordProgrammed i v s.store.cond.unsealed' (entryZones s i)).request .storeWritten i.val v s.store.words[i.val] := by
  unfold ssEntryProgrammed State.wordProgrammed entryZones
  dsimp only
  by_cases hc : s.store.cond = .invalid
  · rw [if_pos hc, if_neg (fun h => h.1 hc), forEach_nil]
  · rw [if_neg hc]
    unfold zcEntryChangeOf
    rw [zoneInUse_stored]
    by_cases hz : s.zoneInUse (entryZone i).val = true
    · rw [if_pos hz, if_pos ⟨hc, hz⟩]
      rfl
    · rw [if_neg hz, if_neg (fun h => hz h.2), forEach_nil]

theorem zcAllEntriesChange_eq (old : SafetyStore) (s : State) :
    zcAllEntriesChange old s = forEach ((s.loader.live.map Plan.zonesInUse).getD []) (zcEntryChange old) s := by
  unfold zcAllEntriesChange
  cases s.loader.live <;> rfl

theorem ssChecksumProgrammed_eq (i : Fin 193) (v : Word) (s : State) : ssChecksumProgrammed i v s =
    ((s.wordProgrammed i v (s.store.programmed i v).checkResult
      (checkZones s (s.store.programmed i v).checkResult)).request .storeWritten i.val v
        s.store.words[i.val]).request .storeCheck (storeCondCode (s.store.programmed i v).checkResult)
        (s.store.programmed i v).entrySum (s.store.programmed i v).checksum := by
  unfold ssChecksumProgrammed State.wordProgrammed checkZones
  dsimp only
  by_cases hc : s.store.cond.trusted = (s.store.programmed i v).checkResult.trusted
  · rw [if_pos hc, if_pos hc, forEach_nil]
    rfl
  · rw [if_neg hc, if_neg hc, zcAllEntriesChange_eq, statusChange_loader]
    rfl

theorem exec_entryCompletion {s : State} {i : Fin 193} {v : Word} (hb : s.betweenWords)
    (hp : s.store.programming = some (i, v)) (hi : i.val ≤ 191) :
    exec .entryProgrammingCompletion s = .next (ssEntryProgrammed i v s) := by
  refine (congrArg Host.Outcome.next (arrive_between hb .entryProgrammed)).trans (congrArg Host.Outcome.next ?_)
  show ssEntryCompletion s = _
  unfold ssEntryCompletion
  rw [hp]
  exact if_pos (by omega)

theorem exec_checksumCompletion {s : State} {i : Fin 193} {v : Word} (hb : s.betweenWords)
    (hp : s.store.programming = some (i, v)) (hi : i.val = 192) :
    exec .checksumProgrammingCompletion s = .next (ssChecksumProgrammed i v s) := by
  refine (congrArg Host.Outcome.next (arrive_between hb .checksumProgrammed)).trans (congrArg Host.Outcome.next ?_)
  show ssChecksumCompletion s = _
  unfold ssChecksumCompletion
  rw [hp]
  exact if_neg (by omega)

theorem checksum_programmed {i : Fin 193} (hi : i.val = 192) (v : Word) (t : SafetyStore) :
    (t.programmed i v).checksum = v := by
  show (t.words.set i.val v)[192] = v
  simp [hi]

/-- Settles O51: the word programmed (`wordProgrammed`), with the zones whose entries it changes, and then the reports. -/
theorem programmingCompletes : Obligations.ProgrammingCompletes := by
  intro s i v hb hp stored parts marked
  refine ⟨fun hi => ⟨_, exec_entryCompletion hb hp hi, ?entry⟩, fun hi => ⟨_, exec_checksumCompletion hb hp hi, ?checksum⟩⟩
  case entry =>
    have hn := nodup_entryZones s i
    have hcond : s.store.cond.unsealed' = if s.store.cond = .valid then .unsealed else s.store.cond := by
      cases s.store.cond <;> rfl
    have hask := (asks_wordProgrammed s i v s.store.cond.unsealed' (entryZones s i)).request .storeWritten i.val v
      s.store.words[i.val]
    rw [ssEntryProgrammed_eq]
    refine ⟨(marked20_wordProgrammed ..).request .., ?store, hask.2, fun z => ?guard, fun z hz => ?marks,
      ((keeps_wordProgrammed _ _ _ _ _).mono (by decide)).request⟩
    case store =>
      rw [request_store, store_wordProgrammed, hcond]
      rfl
    case guard =>
      rw [guard_request, guard_wordProgrammed _ _ _ _ hn, request_store, store_wordProgrammed]
      simp only [mem_entryZones hi]
    case marks =>
      rw [guard_request] at hz
      exact (marked_wordProgrammed _ _ _ _ hn hz).request ..
  case checksum =>
    have hn := nodup_checkZones s (s.store.programmed i v).checkResult
    have hsum := checksum_programmed hi v s.store
    have hcond : (s.store.programmed i v).checkResult = if stored.entrySum = v then .valid else .invalid := by
      unfold SafetyStore.checkResult
      rw [hsum]
      rfl
    have hcode : storeCondCode (s.store.programmed i v).checkResult = if stored.entrySum = v then 0 else 2 := by
      rw [hcond]
      split <;> rfl
    have hask := ((asks_wordProgrammed s i v (s.store.programmed i v).checkResult
      (checkZones s (s.store.programmed i v).checkResult)).request .storeWritten i.val v s.store.words[i.val]).request
        .storeCheck (storeCondCode (s.store.programmed i v).checkResult) (s.store.programmed i v).entrySum
        (s.store.programmed i v).checksum
    rw [ssChecksumProgrammed_eq]
    refine ⟨((marked20_wordProgrammed ..).request ..).request .., ?store, ?asks, fun z => ?guard, fun z hz => ?marks,
      ((keeps_wordProgrammed _ _ _ _ _).mono (by decide)).request.request⟩
    case store =>
      rw [request_store, request_store, store_wordProgrammed, hcond]
      rfl
    case asks =>
      have hwritten : (⟨.storeWritten, 192, v, s.store.words[i.val]⟩ : Request) =
          ⟨.storeWritten, i.val, v, s.store.words[i.val]⟩ := congrArg (fun n => (⟨.storeWritten, n, v, s.store.words[i.val]⟩ : Request)) hi.symm
      have hcheck : (⟨.storeCheck, if stored.entrySum = v then 0 else 2, stored.entrySum, v⟩ : Request) =
          ⟨.storeCheck, storeCondCode (s.store.programmed i v).checkResult, (s.store.programmed i v).entrySum,
            (s.store.programmed i v).checksum⟩ := by
        rw [hcode, hsum]
        rfl
      rw [hwritten, hcheck]
      exact hask.2
    case guard =>
      rw [guard_request, guard_request, guard_wordProgrammed _ _ _ _ hn, request_store, request_store,
        store_wordProgrammed]
      simp only [mem_checkZones]
    case marks =>
      rw [guard_request, guard_request] at hz
      exact ((marked_wordProgrammed _ _ _ _ hn hz).request ..).request ..

end Sys2Proof.Machine
end

section
/-!
PROOFS. Resets (R101, R102, R163, R178) and the state right after one: O52, O53, O60.
-/
namespace Sys2Proof.Machine

-- one theorem after another, as in the tests: side by side they take more threads than the memory limit allows
set_option Elab.async false

/-! ### The records a reset leaves -/

section
variable (cause : ResetCause) (s : State)

theorem line_takeReset (l : Fin 24) : (takeReset cause s).line l = LineRec.start := Vector.getElem_replicate _

theorem area_takeReset (a : Fin 8) : (takeReset cause s).area a = AreaRec.fresh := Vector.getElem_replicate _

theorem unit_takeReset (u : Fin 4) : (takeReset cause s).unit u = WatchUnit.reset := Vector.getElem_replicate _

theorem exec_resetRows {c : Instr} {cause : ResetCause}
    (h : (c, cause) ∈ [(Instr.powerOnReset, ResetCause.powerOn), (.resetPinAsserted, .resetPin)]) :
    exec c s = .next (takeReset cause s) := by
  simp only [List.mem_cons, Prod.mk.injEq, List.not_mem_nil, or_false] at h
  obtain ⟨rfl, rfl⟩ | ⟨rfl, rfl⟩ := h
  all_goals rfl

end

/-! ### The store words a reset leaves (R178) -/

section
variable {s : State}

theorem survivingWords_idle (h : s.store.programming = none) : survivingWords s = s.store.words := by
  unfold survivingWords
  rw [h]

theorem survivingWords_interrupted {i : Fin 193} {v : Word} (h : s.store.programming = some (i, v)) :
    survivingWords s = s.store.words ∨ survivingWords s = s.store.words.set i.val v := by
  unfold survivingWords
  rw [h]
  dsimp only
  split
  · exact .inl rfl
  · split
    · exact .inr rfl
    · exact .inl rfl

theorem survivingWords_others {i k : Fin 193} {v : Word} (h : s.store.programming = some (i, v)) (hk : k ≠ i) :
    (survivingWords s)[k.val] = s.store.words[k.val] := by
  obtain hw | hw := survivingWords_interrupted h
  · rw [hw]
  · simp only [hw]
    exact Vector.getElem_set_ne i.isLt k.isLt (fun e => hk (Fin.ext e.symm))

theorem survivingWords_self {i : Fin 193} {v : Word} (h : s.store.programming = some (i, v)) :
    (survivingWords s)[i.val] = s.store.words[i.val] ∨ (survivingWords s)[i.val] = v := by
  obtain hw | hw := survivingWords_interrupted h
  · exact .inl (by rw [hw])
  · refine .inr ?_
    simp only [hw]
    exact Vector.getElem_set_self i.isLt

/-! ### The memory a reset leaves (R101) -/

theorem grantedMemory_free (h : s.path.port = none) : grantedMemory s = s := by
  unfold grantedMemory
  rw [h]

theorem grantedMemory_upstream {a : Access} (h : s.path.port = some (.upstream a)) :
    grantedMemory s = upstreamMemory a s := by
  unfold grantedMemory
  rw [h]

theorem grantedMemory_own {x : OwnAccess} (h : s.path.port = some (.own x)) : grantedMemory s = ownMemory x s := by
  unfold grantedMemory
  rw [h]

theorem ownMemory_read {x : OwnAccess} (h : x.data = none) : ownMemory x s = s := by
  unfold ownMemory
  rw [h]

theorem mem_takeReset (cause : ResetCause) {u : State} (h : grantedMemory s = u) : (takeReset cause s).mem = u.mem :=
  show (grantedMemory s).mem = u.mem from congrArg State.mem h

theorem memRead_takeReset (cause : ResetCause) {u : State} (h : grantedMemory s = u) (b : Addr) :
    (takeReset cause s).memRead b = u.memRead b := congrArg (fun m : Memory => m.read b.toNat) (mem_takeReset cause h)

end

/-- Settles O52: every part of `takeReset`, the memory by what stood granted at the port. -/
theorem resetLeavesTheResetValues : Obligations.ResetLeavesTheResetValues := by
  intro s c cause hc
  refine ⟨_, exec_resetRows s hc, rfl, rfl, line_takeReset cause s, rfl, area_takeReset cause s, rfl, rfl, rfl, rfl, rfl,
    rfl, rfl, rfl, unit_takeReset cause s, rfl, rfl, rfl, rfl, rfl, rfl, survivingWords_idle,
    fun i v hp => ⟨fun k hk => survivingWords_others hp hk, survivingWords_self hp⟩,
    fun hp => mem_takeReset cause (grantedMemory_free hp), fun a hp => mem_takeReset cause (grantedMemory_upstream hp),
    fun x hp hx => mem_takeReset cause ((grantedMemory_own hp).trans (ownMemory_read hx)), fun a v b hw hp => ?upstream,
    fun x v b hw hp hx => ?own, rfl⟩
  case upstream =>
    rw [memRead_takeReset cause (grantedMemory_upstream hp)]
    exact memRead_memWrite s a b v hw
  case own =>
    rw [memRead_takeReset cause (grantedMemory_own hp), ownMemory_write hx]
    exact memRead_memWrite s _ b v hw

/-! ### The end of a reset (R91, R123) -/

/-- What RESET_END samples and starts, before RW begins. -/
def State.resetEnded (s : State) (straps : BitVec 6) (level : Bool) : State :=
  ({ s with yieldLevel := level }.setPath { s.path with straps := straps, resetHeld := false }).setStore
    { s.store with checkPending := true }

theorem endReset_held {s : State} (h : s.path.resetHeld = true) (straps : BitVec 6) (level : Bool) :
    endReset straps level s = (s.resetEnded straps level).chooseWork := if_pos h

theorem endReset_running {s : State} (h : s.path.resetHeld = false) (straps : BitVec 6) (level : Bool) :
    endReset straps level s = s := if_neg (by rw [h]; exact Bool.false_ne_true)

/-- R163: RW begins with word 16, which shows STARTING. -/
theorem chooseWork_resetEnded {s : State} (straps : BitVec 6) (level : Bool) (hd : s.command.device = .starting)
    (hw : s.writer = ReportWriter.reset) :
    (s.resetEnded straps level).chooseWork = (s.resetEnded straps level).showing 16 (List.range' 17 101) := by
  have hwriter : (s.resetEnded straps level).writer = ReportWriter.reset := hw
  have hfree : (s.resetEnded straps level).writer.work = .free := by rw [hwriter]; rfl
  rw [chooseWork_starting hfree hd, issueStatus_cons (by rw [hwriter]; rfl)]

/-- Settles O53: outside a reset nothing happens; a reset ends with RW's first status word. -/
theorem resetEndBeginsStartUp : Obligations.ResetEndBeginsStartUp := by
  refine fun s straps level => ⟨fun h => congrArg Host.Outcome.next (endReset_running h straps level),
    fun h => ⟨_, congrArg Host.Outcome.next (endReset_held h straps level), ?_⟩⟩
  have hk := keeps_chooseWork (s.resetEnded straps level)
  have hstart : KeepsAllBut [.resetHeld, .straps, .yieldLevel, .checkPending] s (s.resetEnded straps level) :=
    fun q hq => by
      cases q
      case resetHeld => exact absurd (by decide) hq
      case straps => exact absurd (by decide) hq
      case yieldLevel => exact absurd (by decide) hq
      case checkPending => exact absurd (by decide) hq
      all_goals rfl
  refine ⟨hk .resetHeld (by decide), hk .straps (by decide), hk .yieldLevel (by decide), hk .checkPending (by decide),
    fun hd hw => ?writes, .trans (hstart.mono (by decide)) (hk.mono (by decide))⟩
  case writes =>
    have hshown : (s.resetEnded straps level).statusWord 16 = 0 := by
      show word (deviceCode s.command.device) = 0
      rw [hd]
      rfl
    rw [chooseWork_resetEnded straps level hd hw, showing_ownRW, hshown]
    exact ⟨rfl, rfl⟩

/-! ### The state right after a reset -/

/-- What a reset leaves of the reset state is that state again, but for the free value used. -/
theorem takeReset_reset : takeReset .powerOn State.reset = { State.reset with freeUsed := State.reset.freeUsed + 1 } := rfl

/-- Settles O60: the invariants hold after every reset (`boundsOk_reset`, `aligned_takeReset`), so after this one. -/
theorem resetStateAndInvariants : Obligations.ResetStateAndInvariants := by
  have hbounds : RingOk (takeReset .powerOn State.reset) ∧ DirtyOk (takeReset .powerOn State.reset) :=
    (boundsOk_iff _).1 (boundsOk_reset .powerOn State.reset)
  have haligned : AlignmentOk (takeReset .powerOn State.reset) :=
    (alignmentOk_iff _).2 ⟨aligned_takeReset .powerOn State.reset, inReset_takeReset .powerOn State.reset⟩
  rw [takeReset_reset] at hbounds haligned
  refine ⟨⟨congrArg Host.Outcome.next takeReset_reset, rfl, rfl, rfl, rfl, rfl, rfl, rfl, rfl, rfl⟩, wf_reset, hbounds.1,
    hbounds.2, Nat.zero_le _, fun h => ?storeSealed, haligned⟩
  case storeSealed => cases h

end Sys2Proof.Machine
end

section
/-!
PROOFS. The words of a plan and the least offending one (R103 to R107): where the fields stand (6.1), what a list of checks
names, the header and the line records.
-/
namespace Sys2Proof.Machine

-- one theorem after another, as in the tests: side by side they take more threads than the memory limit allows
set_option Elab.async false

/-! ### The least number with a property -/

/-- The least number with a property, or none if no number has it. -/
def LeastOf (P : Nat → Prop) : Option Nat → Prop
  | none => ∀ o, ¬ P o
  | some o => P o ∧ ∀ k, k < o → ¬ P k

namespace LeastOf
variable {P Q : Nat → Prop} {x y : Option Nat}

theorem congr (h : LeastOf P x) (hPQ : ∀ o, P o ↔ Q o) : LeastOf Q x := by
  cases x with
  | none => exact fun o hq => h o ((hPQ o).2 hq)
  | some o =>
    obtain ⟨hp, hk⟩ := h
    exact ⟨(hPQ o).1 hp, fun k hlt hq => hk k hlt ((hPQ k).2 hq)⟩

theorem eq_none_iff (h : LeastOf P x) : x = none ↔ ∀ o, ¬ P o := by
  cases x with
  | none => exact iff_of_true rfl h
  | some o => exact iff_of_false (by simp) fun hn => hn o h.1

theorem eq_some_iff (h : LeastOf P x) (o : Nat) : x = some o ↔ P o ∧ ∀ k, k < o → ¬ P k := by
  cases x with
  | none => exact iff_of_false (by simp) fun ho => h o ho.1
  | some j =>
    obtain ⟨hj, hlow⟩ := h
    refine ⟨fun e => Option.some.inj e ▸ ⟨hj, hlow⟩, fun ⟨ho, hlow'⟩ => congrArg some ?_⟩
    obtain hlt | heq | hgt := Nat.lt_trichotomy j o
    · exact absurd hj (hlow' j hlt)
    · exact heq
    · exact absurd ho (hlow o hgt)

/-- The least number with one of two properties, where the first has been looked for first. -/
theorem or (hx : LeastOf P x) (hy : x = none → LeastOf Q y) (hlt : ∀ o k, x = some o → Q k → o < k) :
    LeastOf (fun o => P o ∨ Q o) (x.or y) := by
  cases x with
  | none => exact (hy rfl).congr fun o => (or_iff_right (hx o)).symm
  | some o =>
    obtain ⟨ho, hlow⟩ := hx
    refine ⟨.inl ho, fun k hk h => ?_⟩
    obtain h | h := h
    · exact hlow k hk h
    · exact Nat.lt_asymm hk (hlt o k rfl h)

/-- The least number with a property of one of the records, where the records have been looked at in order. -/
theorem firstOf {R : Nat → Nat → Prop} {f : Nat → Option Nat} (n : Nat) (hf : ∀ i, i < n → LeastOf (R i) (f i))
    (hlt : ∀ i j o k, i < j → j < n → f i = some o → R j k → o < k) :
    LeastOf (fun o => ∃ i, i < n ∧ R i o) (firstOf f n) := by
  induction n with
  | zero =>
    intro o ⟨i, hi, _⟩
    exact absurd hi (Nat.not_lt_zero i)
  | succ n ih =>
    have hstep : Machine.firstOf f (n + 1) = (Machine.firstOf f n).or (f n) := by
      unfold Machine.firstOf
      rw [List.range_succ, List.findSome?_append]
      simp
    have hbefore := ih (fun i hi => hf i (by omega)) (fun i j o k hij hj => hlt i j o k hij (by omega))
    rw [hstep]
    refine (hbefore.or (fun _ => hf n (by omega)) fun o k ho hk => ?_).congr fun o => ?_
    · obtain ⟨i, hi, hio⟩ := List.exists_of_findSome?_eq_some ho
      exact hlt i n o k (List.mem_range.1 hi) (by omega) hio hk
    · refine ⟨?_, fun ⟨i, hi, hr⟩ => ?_⟩
      · rintro (⟨i, hi, hr⟩ | hr)
        · exact ⟨i, by omega, hr⟩
        · exact ⟨n, by omega, hr⟩
      · obtain h | rfl : i < n ∨ i = n := by omega
        · exact .inl ⟨i, h, hr⟩
        · exact .inr hr

/-- R113: checks in increasing order name the least of the words that fail. -/
theorem firstFailure {l : List (Nat × Bool)} (h : l.Pairwise fun c d => c.1 < d.1) :
    LeastOf (fun o => (o, false) ∈ l) (firstFailure l) := by
  induction l with
  | nil => exact fun o => List.not_mem_nil
  | cons c l ih =>
    obtain ⟨hc, hl⟩ := List.pairwise_cons.1 h
    obtain ⟨b, ok⟩ := c
    rw [firstFailure_cons]
    cases ok with
    | true =>
      rw [if_pos rfl]
      exact (ih hl).congr fun o => by simp
    | false =>
      rw [if_neg Bool.false_ne_true]
      refine ⟨List.mem_cons_self, fun k hk hm => ?_⟩
      obtain he | hm := List.mem_cons.1 hm
      · exact absurd (congrArg Prod.fst he) (Nat.ne_of_lt hk)
      · exact Nat.lt_asymm hk (hc _ hm)

end LeastOf

/-- A check that decides a proposition fails exactly if the proposition does not hold. -/
theorem check_fails_iff {a o : Nat} {P : Prop} [Decidable P] : (o, false) = (a, decide P) ↔ o = a ∧ ¬ P := by
  rw [Prod.mk.injEq, eq_comm (a := false), decide_eq_false_iff_not]

/-! ### Where the fields of a plan stand (6.1) -/

theorem lineRole_eq (p : Plan) (i : Nat) : p.lineRole i = p.num (1034 + 6 * i) :=
  congrArg p.num (show 1031 + 6 * i + 3 = 1034 + 6 * i by omega)

theorem lineLen_eq (p : Plan) (i : Nat) : p.lineLen i = p.num (1032 + 6 * i) :=
  congrArg p.num (show 1031 + 6 * i + 1 = 1032 + 6 * i by omega)

theorem decayShift_eq (p : Plan) (a : Nat) : p.decayShift a = p.num (1175 + 14 * a + 13) % 256 :=
  congrArg (· % 256) (Nat.div_one _)

theorem glideFrames_eq (p : Plan) (a : Nat) : p.glideFrames a = p.num (1175 + 14 * a + 13) / 256 % 256 := rfl

theorem isWriter_iff (p : Plan) (l : Fin 24) (m : Master) : p.isWriter l m = true ↔ p.lineWriter l.val = masterCode m :=
  decide_eq_true_iff

/-- 6.1: the fields of a plan by their offsets. -/
theorem planFields (p : Plan) : PlanFields p where
  words _ _ := ⟨rfl, rfl⟩
  header := ⟨rfl, rfl, rfl, rfl, rfl, rfl, rfl⟩
  lines i := ⟨rfl, lineLen_eq p i, congrArg p.num (show 1031 + 6 * i + 2 = 1033 + 6 * i by omega), lineRole_eq p i,
    congrArg p.num (show 1031 + 6 * i + 4 = 1035 + 6 * i by omega),
    congrArg p.num (show 1031 + 6 * i + 5 = 1036 + 6 * i by omega)⟩
  writers l m := by
    have hword : p.lineWriter l.val = p.num (1033 + 6 * l.val) :=
      congrArg p.num (show 1031 + 6 * l.val + 2 = 1033 + 6 * l.val by omega)
    rw [isWriter_iff, hword]
    cases m <;> rfl
  areas a := by
    have h13 : 1175 + 14 * a + 13 = 1188 + 14 * a := by omega
    refine ⟨rfl, fun i => congrArg p.num (show 1175 + 14 * a + (1 + i) = 1176 + 14 * a + i by omega),
      congrArg p.num (show 1175 + 14 * a + 9 = 1184 + 14 * a by omega),
      congrArg p.num (show 1175 + 14 * a + 10 = 1185 + 14 * a by omega),
      congrArg p.num (show 1175 + 14 * a + 11 = 1186 + 14 * a by omega),
      congrArg p.num (show 1175 + 14 * a + 12 = 1187 + 14 * a by omega), ?shift, ?glide⟩
    case shift => rw [decayShift_eq, h13]
    case glide => rw [glideFrames_eq, h13]
  zones z := ⟨rfl, congrArg p.num (show 1287 + 12 * z + 1 = 1288 + 12 * z by omega),
    congrArg p.num (show 1287 + 12 * z + 2 = 1289 + 12 * z by omega),
    congrArg p.num (show 1287 + 12 * z + 3 = 1290 + 12 * z by omega),
    fun i => congrArg p.num (show 1287 + 12 * z + (4 + i) = 1291 + 12 * z + i by omega),
    congrArg (· - 2 * p.frameLen) (lineLen_eq p _)⟩

/-! ### The header words (R104) -/

theorem frameLen_contains_iff (p : Plan) : [16, 32, 64, 128, 256].contains p.frameLen = true ↔
    p.num 1025 = 16 ∨ p.num 1025 = 32 ∨ p.num 1025 = 64 ∨ p.num 1025 = 128 ∨ p.num 1025 = 256 := by
  rw [List.contains_iff_mem]
  simp only [List.mem_cons, List.not_mem_nil, or_false]
  rfl

theorem leastOf_header (p : Plan) : LeastOf p.headerOffends (firstFailure (headerChecks p)) := by
  refine (LeastOf.firstFailure (by simp [headerChecks])).congr fun o => ?_
  have htap : ¬ (p.tapBase + p.zoneCount * p.frameLen ≤ 67108864) ↔
      67108863 < p.num 1029 + p.num 1028 * p.num 1025 - 1 := by
    rw [← lastWord_le_iff, Nat.not_le]
    rfl
  have hzone : ¬ (p.zoneBase + p.zoneCount * (2 * p.frameLen) ≤ 67108864) ↔
      67108863 < p.num 1030 + p.num 1028 * (2 * p.num 1025) - 1 := by
    rw [← lastWord_le_iff, Nat.not_le]
    rfl
  have hframe : (o, false) = (1025, [16, 32, 64, 128, 256].contains p.frameLen) ↔ o = 1025 ∧
      ¬ (p.num 1025 = 16 ∨ p.num 1025 = 32 ∨ p.num 1025 = 64 ∨ p.num 1025 = 128 ∨ p.num 1025 = 256) := by
    rw [← frameLen_contains_iff, Prod.mk.injEq, Bool.not_eq_true, eq_comm (a := false)]
  unfold headerChecks Plan.headerOffends
  simp only [List.mem_cons, List.not_mem_nil, or_false, check_fails_iff, hframe, htap, hzone]
  rfl

/-! ### The line records (R105) -/

theorem lineLengths_iff (n : Nat) : lineLengths.contains n = true ↔ ∃ e, 10 ≤ e ∧ e ≤ 16 ∧ n = 2 ^ e := by
  rw [List.contains_iff_mem]
  unfold lineLengths
  simp only [List.mem_cons, List.not_mem_nil, or_false]
  constructor
  · rintro (rfl | rfl | rfl | rfl | rfl | rfl | rfl)
    · exact ⟨10, by decide⟩
    · exact ⟨11, by decide⟩
    · exact ⟨12, by decide⟩
    · exact ⟨13, by decide⟩
    · exact ⟨14, by decide⟩
    · exact ⟨15, by decide⟩
    · exact ⟨16, by decide⟩
  · rintro ⟨e, h1, h2, rfl⟩
    interval_cases e <;> simp

/-- R105: the words of one line record that fail their checks. -/
def Plan.lineRecordOffends (p : Plan) (i o : Nat) : Prop :=
  (o = 1031 + 6 * i ∧ 67108863 < p.lineBase i) ∨
    (o = 1031 + 6 * i + 1 ∧
      ¬ ((∃ e, 10 ≤ e ∧ e ≤ 16 ∧ p.lineLen i = 2 ^ e) ∧ p.lineBase i % p.lineLen i = 0)) ∨
    (o = 1031 + 6 * i + 2 ∧ 3 < p.lineWriter i) ∨
    (o = 1031 + 6 * i + 3 ∧ p.lineRole i ≠ 1 ∧ p.lineRole i ≠ 2) ∨
    (o = 1031 + 6 * i + 4 ∧ 8388607 < p.jumpThreshold i) ∨
    (o = 1031 + 6 * i + 5 ∧ ¬ (1 ≤ p.recoverFrames i ∧ p.recoverFrames i ≤ 255))

theorem lineOffends_iff (p : Plan) (o : Nat) : p.lineOffends o ↔ ∃ i, i < p.lineCount ∧ p.lineRecordOffends i o := Iff.rfl

theorem leastOf_line (p : Plan) (i : Nat) : LeastOf (p.lineRecordOffends i) (firstFailure (lineChecks p i)) := by
  refine (LeastOf.firstFailure (by simp [lineChecks, lineOff])).congr fun o => ?_
  have hlength : (o, false) =
      (lineOff i 1, lineLengths.contains (p.lineLen i) && decide (p.lineBase i % p.lineLen i = 0)) ↔ o = lineOff i 1 ∧
      ¬ ((∃ e, 10 ≤ e ∧ e ≤ 16 ∧ p.lineLen i = 2 ^ e) ∧ p.lineBase i % p.lineLen i = 0) := by
    rw [← lineLengths_iff, Prod.mk.injEq, eq_comm (a := false), ← Bool.not_eq_true, Bool.and_eq_true, decide_eq_true_eq]
  unfold lineChecks Plan.lineRecordOffends
  simp only [List.mem_cons, List.not_mem_nil, or_false, check_fails_iff, hlength, Nat.not_le, not_or]
  rfl

theorem lineRecordOffends_range {p : Plan} {i o : Nat} (h : p.lineRecordOffends i o) :
    1031 + 6 * i ≤ o ∧ o < 1037 + 6 * i := by
  unfold Plan.lineRecordOffends at h
  omega

theorem leastOf_lines (p : Plan) :
    LeastOf p.lineOffends (firstOf (fun i => firstFailure (lineChecks p i)) p.lineCount) := by
  refine LeastOf.firstOf _ (fun i _ => leastOf_line p i) fun i j o k hij _ hi hj => ?_
  have h1 := lineRecordOffends_range (((leastOf_line p i).eq_some_iff o).1 hi).1
  have h2 := lineRecordOffends_range hj
  omega

end Sys2Proof.Machine
end

section
/-!
PROOFS. The least offending word of a plan (R103 to R107): the area records, the zone records and all of them together.
-/
namespace Sys2Proof.Machine

-- one theorem after another, as in the tests: side by side they take more threads than the memory limit allows
set_option Elab.async false

/-! ### The area records (R106) -/

/-- R106: the words of one area record that fail their checks. -/
def Plan.areaRecordOffends (p : Plan) (a o : Nat) : Prop :=
  (o = 1175 + 14 * a ∧ 8 < p.candCount a) ∨
    (∃ j, j < p.candCount a ∧ o = 1175 + 14 * a + 1 + j ∧
      ¬ (p.candLine a j < p.lineCount ∧ p.num (1034 + 6 * p.candLine a j) = 1 ∧
        ∀ k, k < j → p.candLine a k ≠ p.candLine a j)) ∨
    (o = 1175 + 14 * a + 9 ∧ 8388607 < p.threshold a) ∨
    (o = 1175 + 14 * a + 10 ∧ 8388607 < p.margin a) ∨
    (o = 1175 + 14 * a + 11 ∧ 255 < p.dwellFrames a) ∨
    (o = 1175 + 14 * a + 12 ∧ 255 < p.releaseFrames a) ∨
    (o = 1175 + 14 * a + 13 ∧ ¬ (1 ≤ p.num (1175 + 14 * a + 13) % 256 ∧ p.num (1175 + 14 * a + 13) % 256 ≤ 8 ∧
      1 ≤ p.num (1175 + 14 * a + 13) / 256 % 256 ∧ p.num (1175 + 14 * a + 13) / 256 % 256 ≤ 64 ∧
      p.num (1175 + 14 * a + 13) < 65536))

theorem areaOffends_iff (p : Plan) (o : Nat) : p.areaOffends o ↔ ∃ a, a < p.areaCount ∧ p.areaRecordOffends a o := Iff.rfl

theorem areaRecordOffends_le {p : Plan} {a o : Nat} (h : p.areaRecordOffends a o) : 1175 + 14 * a ≤ o := by
  unfold Plan.areaRecordOffends at h
  obtain ⟨h, -⟩ | ⟨j, -, h, -⟩ | ⟨h, -⟩ | ⟨h, -⟩ | ⟨h, -⟩ | ⟨h, -⟩ | ⟨h, -⟩ := h
  all_goals omega

theorem candidateCheck_fails_iff (p : Plan) (a j o : Nat) : candidateCheck p a j = (o, false) ↔
    o = 1175 + 14 * a + 1 + j ∧
      ¬ (p.candLine a j < p.lineCount ∧ p.num (1034 + 6 * p.candLine a j) = 1 ∧
        ∀ k, k < j → p.candLine a k ≠ p.candLine a j) := by
  have hoff : areaOff a (1 + j) = o ↔ o = 1175 + 14 * a + 1 + j := by
    unfold areaOff
    omega
  unfold candidateCheck
  rw [Prod.mk.injEq, hoff, ← Bool.not_eq_true, Bool.and_eq_true, Bool.and_eq_true, decide_eq_true_eq, decide_eq_true_eq,
    List.all_eq_true, ← lineRole_eq]
  simp only [List.mem_range, bne_iff_ne, and_assoc]

theorem num_lt (p : Plan) (o : Nat) : p.num o < 4294967296 := (p.word o).isLt

/-- R106: the word at +13 in the terms of 11.3. -/
theorem shiftAndGlide_iff (p : Plan) (a : Nat) : shiftAndGlideOk p a = true ↔
    1 ≤ p.num (1175 + 14 * a + 13) % 256 ∧ p.num (1175 + 14 * a + 13) % 256 ≤ 8 ∧
      1 ≤ p.num (1175 + 14 * a + 13) / 256 % 256 ∧ p.num (1175 + 14 * a + 13) / 256 % 256 ≤ 64 ∧
      p.num (1175 + 14 * a + 13) < 65536 := by
  have hlt := num_lt p (1175 + 14 * a + 13)
  have hhigh : bits (p.word (areaOff a 13)) 16 16 = p.num (1175 + 14 * a + 13) / 65536 % 65536 := rfl
  unfold shiftAndGlideOk
  rw [decide_eq_true_eq, hhigh, decayShift_eq, glideFrames_eq]
  omega

theorem shiftAndGlide_fails_iff (p : Plan) (a o : Nat) : (o, false) = (areaOff a 13, shiftAndGlideOk p a) ↔
    o = 1175 + 14 * a + 13 ∧ ¬ (1 ≤ p.num (1175 + 14 * a + 13) % 256 ∧ p.num (1175 + 14 * a + 13) % 256 ≤ 8 ∧
      1 ≤ p.num (1175 + 14 * a + 13) / 256 % 256 ∧ p.num (1175 + 14 * a + 13) / 256 % 256 ≤ 64 ∧
      p.num (1175 + 14 * a + 13) < 65536) := by
  rw [← shiftAndGlide_iff, Prod.mk.injEq, eq_comm (a := false), Bool.not_eq_true]
  rfl

theorem areaFieldChecks_pairwise {p : Plan} {a : Nat} (h : p.candCount a ≤ 8) :
    (areaFieldChecks p a).Pairwise fun c d => c.1 < d.1 := by
  refine List.pairwise_append.2 ⟨?candidates, by simp [areaOff], ?across⟩
  case candidates =>
    refine List.pairwise_map.2 (List.pairwise_lt_range.imp fun {j k} hjk => ?_)
    show areaOff a (1 + j) < areaOff a (1 + k)
    unfold areaOff
    omega
  case across =>
    intro c hc d hd
    obtain ⟨j, hj, rfl⟩ := List.mem_map.1 hc
    have hj' := List.mem_range.1 hj
    have hd' : areaOff a 9 ≤ d.1 := by
      simp only [List.mem_cons, List.not_mem_nil, or_false] at hd
      obtain rfl | rfl | rfl | rfl | rfl := hd
      all_goals simp [areaOff]
    show areaOff a (1 + j) < d.1
    unfold areaOff at hd' ⊢
    omega

theorem leastOf_area (p : Plan) (a : Nat) : LeastOf (p.areaRecordOffends a) (areaFailure p a) := by
  unfold areaFailure
  by_cases h : p.candCount a ≤ 8
  · rw [if_pos h]
    refine (LeastOf.firstFailure (areaFieldChecks_pairwise h)).congr fun o => ?_
    unfold areaFieldChecks Plan.areaRecordOffends
    have h8 : ¬ (o = 1175 + 14 * a ∧ 8 < p.candCount a) := by omega
    rw [or_iff_right h8]
    simp only [List.mem_append, List.mem_map, List.mem_range, candidateCheck_fails_iff, List.mem_cons, List.not_mem_nil,
      or_false, check_fails_iff, shiftAndGlide_fails_iff, Nat.not_le]
    rfl
  · rw [if_neg h]
    refine ⟨.inl ⟨rfl, Nat.lt_of_not_le h⟩, fun k hk hp => ?_⟩
    exact Nat.not_le.2 hk (areaRecordOffends_le hp)

/-- The word an area record is refused for lies within the record. -/
theorem areaFailure_lt {p : Plan} {a o : Nat} (h : areaFailure p a = some o) : o < 1175 + 14 * (a + 1) := by
  obtain ⟨ho, hlow⟩ := ((leastOf_area p a).eq_some_iff o).1 h
  by_contra hge
  have hcount : p.candCount a ≤ 8 := by
    by_contra h8
    exact hlow (1175 + 14 * a) (by omega) (.inl ⟨rfl, Nat.lt_of_not_le h8⟩)
  unfold Plan.areaRecordOffends at ho
  obtain ⟨ho, -⟩ | ⟨j, hj, ho, -⟩ | ⟨ho, -⟩ | ⟨ho, -⟩ | ⟨ho, -⟩ | ⟨ho, -⟩ | ⟨ho, -⟩ := ho
  all_goals omega

theorem leastOf_areas (p : Plan) : LeastOf p.areaOffends (firstOf (areaFailure p) p.areaCount) := by
  refine LeastOf.firstOf _ (fun a _ => leastOf_area p a) fun i j o k hij _ hi hj => ?_
  have h1 := areaFailure_lt hi
  have h2 := areaRecordOffends_le hj
  omega

/-! ### The zone records (R107) -/

/-- R107: the words of one zone record that fail their checks. -/
def Plan.zoneRecordOffends (p : Plan) (z o : Nat) : Prop :=
  (o = 1287 + 12 * z ∧ ¬ (p.programLine z < p.lineCount ∧ p.num (1034 + 6 * p.programLine z) = 2)) ∨
    (o = 1287 + 12 * z + 1 ∧ p.areaCount ≤ p.zoneArea z) ∨
    (o = 1287 + 12 * z + 2 ∧ 4095 < p.trim z) ∨
    (o = 1287 + 12 * z + 3 ∧ p.num (1032 + 6 * p.programLine z) < p.restDelay z + 2 * p.frameLen) ∨
    (∃ i, i < p.candCount (p.zoneArea z) ∧ o = 1287 + 12 * z + 4 + i ∧
      p.num (1032 + 6 * p.programLine z) < p.rowEntry z i + 2 * p.frameLen)

theorem zoneOffends_iff (p : Plan) (o : Nat) : p.zoneOffends o ↔ ∃ z, z < p.zoneCount ∧ p.zoneRecordOffends z o := Iff.rfl

theorem zoneRecordOffends_le {p : Plan} {z o : Nat} (h : p.zoneRecordOffends z o) : 1287 + 12 * z ≤ o := by
  unfold Plan.zoneRecordOffends at h
  obtain ⟨h, -⟩ | ⟨h, -⟩ | ⟨h, -⟩ | ⟨h, -⟩ | ⟨i, -, h, -⟩ := h
  all_goals omega

/-- What the checks of the tables before have made sure of when a zone record is examined. -/
structure ZonesExaminable (p : Plan) : Prop where
  window : ∀ i, i < p.lineCount → 2 * p.frameLen ≤ p.lineLen i
  candidates : ∀ a, a < p.areaCount → p.candCount a ≤ 8

theorem zoneFieldChecks_pairwise (p : Plan) (z : Nat) : (zoneFieldChecks p z).Pairwise fun c d => c.1 < d.1 := by
  refine List.pairwise_append.2 ⟨by simp [zoneOff], ?rows, ?across⟩
  case rows =>
    refine List.pairwise_map.2 (List.pairwise_lt_range.imp fun {j k} hjk => ?_)
    show zoneOff z (4 + j) < zoneOff z (4 + k)
    unfold zoneOff
    omega
  case across =>
    intro c hc d hd
    obtain ⟨i, -, rfl⟩ := List.mem_map.1 hd
    simp only [List.mem_cons, List.not_mem_nil, or_false] at hc
    obtain rfl | rfl := hc
    all_goals
      simp only [zoneOff]
      omega

/-- R107: a delay fails its check exactly if it and the window of two frames do not fit the line. -/
theorem delay_fails_iff {p : Plan} {z : Nat} (hw : 2 * p.frameLen ≤ p.lineLen (p.programLine z)) (d : Nat) :
    ¬ d ≤ p.delayBound z ↔ p.num (1032 + 6 * p.programLine z) < d + 2 * p.frameLen := by
  unfold Plan.delayBound
  rw [← lineLen_eq]
  omega

theorem leastOf_zone {p : Plan} (hp : ZonesExaminable p) (z : Nat) :
    LeastOf (p.zoneRecordOffends z) (zoneFailure p z) := by
  unfold zoneFailure
  rw [lineRole_eq]
  by_cases hline : p.programLine z < p.lineCount ∧ p.num (1034 + 6 * p.programLine z) = 2
  case neg =>
    rw [if_pos hline]
    exact ⟨.inl ⟨rfl, hline⟩, fun k hk hz => Nat.not_le.2 hk (zoneRecordOffends_le hz)⟩
  rw [if_neg (not_not.2 hline)]
  by_cases harea : p.zoneArea z < p.areaCount
  case neg =>
    rw [if_pos harea]
    refine ⟨.inr (.inl ⟨rfl, Nat.le_of_not_lt harea⟩), fun k hk hz => ?_⟩
    have hk' : k < 1287 + 12 * z + 1 := hk
    unfold Plan.zoneRecordOffends at hz
    obtain ⟨-, h⟩ | ⟨h, -⟩ | ⟨h, -⟩ | ⟨h, -⟩ | ⟨i, -, h, -⟩ := hz
    · exact h hline
    all_goals omega
  rw [if_neg (not_not.2 harea)]
  refine (LeastOf.firstFailure (zoneFieldChecks_pairwise p z)).congr fun o => ?_
  have hdelay := delay_fails_iff (hp.window _ hline.1)
  have hrow (i : Nat) : (zoneOff z (4 + i), decide (p.rowEntry z i ≤ p.delayBound z)) = (o, false) ↔
      o = 1287 + 12 * z + 4 + i ∧ p.num (1032 + 6 * p.programLine z) < p.rowEntry z i + 2 * p.frameLen := by
    rw [eq_comm, check_fails_iff, hdelay]
    unfold zoneOff
    rw [Nat.add_assoc (1287 + 12 * z)]
  have hnoLine : ¬ (o = 1287 + 12 * z ∧ ¬ (p.programLine z < p.lineCount ∧ p.num (1034 + 6 * p.programLine z) = 2)) :=
    fun h => h.2 hline
  have hnoArea : ¬ (o = 1287 + 12 * z + 1 ∧ p.areaCount ≤ p.zoneArea z) := fun h => Nat.not_lt.2 h.2 harea
  unfold zoneFieldChecks Plan.zoneRecordOffends
  rw [or_iff_right hnoLine, or_iff_right hnoArea]
  simp only [List.mem_append, List.mem_map, List.mem_range, List.mem_cons, List.not_mem_nil, or_false, check_fails_iff,
    hdelay, hrow, Nat.not_le, or_assoc]
  rfl

/-- The word a zone record is refused for lies within the record. -/
theorem zoneFailure_lt {p : Plan} (hp : ZonesExaminable p) {z o : Nat} (h : zoneFailure p z = some o) :
    o < 1287 + 12 * (z + 1) := by
  obtain ⟨ho, hlow⟩ := ((leastOf_zone hp z).eq_some_iff o).1 h
  by_contra hge
  have harea : p.zoneArea z < p.areaCount := by
    by_contra hno
    exact hlow (1287 + 12 * z + 1) (by omega) (.inr (.inl ⟨rfl, Nat.le_of_not_lt hno⟩))
  have hcount := hp.candidates _ harea
  unfold Plan.zoneRecordOffends at ho
  obtain ⟨ho, -⟩ | ⟨ho, -⟩ | ⟨ho, -⟩ | ⟨ho, -⟩ | ⟨i, hi, ho, -⟩ := ho
  all_goals omega

theorem leastOf_zones {p : Plan} (hp : ZonesExaminable p) :
    LeastOf p.zoneOffends (firstOf (zoneFailure p) p.zoneCount) := by
  refine LeastOf.firstOf _ (fun z _ => leastOf_zone hp z) fun i j o k hij _ hi hj => ?_
  have h1 := zoneFailure_lt hp hi
  have h2 := zoneRecordOffends_le hj
  omega

/-! ### All examined words (R103 to R107) -/

theorem fieldFailure_eq (p : Plan) : fieldFailure p = (firstFailure (headerChecks p)).or
    ((firstOf (fun i => firstFailure (lineChecks p i)) p.lineCount).or
      ((firstOf (areaFailure p) p.areaCount).or (firstOf (zoneFailure p) p.zoneCount))) := by
  unfold fieldFailure
  cases firstFailure (headerChecks p) with
  | some o => rfl
  | none =>
    cases firstOf (fun i => firstFailure (lineChecks p i)) p.lineCount with
    | some o => rfl
    | none => cases firstOf (areaFailure p) p.areaCount <;> rfl

/-- R104: what a good header says of the counts and of F. -/
theorem counts_of_header {p : Plan} (h : firstFailure (headerChecks p) = none) :
    p.lineCount ≤ 24 ∧ p.areaCount ≤ 8 ∧ p.frameLen ≤ 256 := by
  have hno := (leastOf_header p).eq_none_iff.1 h
  have hlines : ¬ ¬ (1 ≤ p.lineCount ∧ p.lineCount ≤ 24) := fun hc => hno 1026 (.inr (.inl ⟨rfl, hc⟩))
  have hareas : ¬ ¬ (1 ≤ p.areaCount ∧ p.areaCount ≤ 8) := fun hc => hno 1027 (.inr (.inr (.inl ⟨rfl, hc⟩)))
  have hframe : ¬ ¬ (p.frameLen = 16 ∨ p.frameLen = 32 ∨ p.frameLen = 64 ∨ p.frameLen = 128 ∨ p.frameLen = 256) :=
    fun hc => hno 1025 (.inl ⟨rfl, hc⟩)
  omega

/-- R105: what good line records say of their lengths. -/
theorem lineLen_of_lines {p : Plan} (h : ∀ o, ¬ p.lineOffends o) {i : Nat} (hi : i < p.lineCount) :
    ∃ e, 10 ≤ e ∧ e ≤ 16 ∧ p.lineLen i = 2 ^ e := by
  by_contra hno
  exact h (1031 + 6 * i + 1) ⟨i, hi, .inr (.inl ⟨rfl, fun hc => hno hc.1⟩)⟩

theorem zonesExaminable_of {p : Plan} (hF : p.frameLen ≤ 256) (hl : ∀ o, ¬ p.lineOffends o)
    (ha : ∀ o, ¬ p.areaOffends o) : ZonesExaminable p where
  window i hi := by
    obtain ⟨e, h10, -, he⟩ := lineLen_of_lines hl hi
    have hpow : 2 ^ 10 ≤ 2 ^ e := Nat.pow_le_pow_right (by decide) h10
    omega
  candidates a hlt := by
    by_contra h8
    exact ha (1175 + 14 * a) ⟨a, hlt, .inl ⟨rfl, Nat.lt_of_not_le h8⟩⟩

theorem headerOffends_le {p : Plan} {o : Nat} (h : p.headerOffends o) : o ≤ 1030 := by
  unfold Plan.headerOffends at h
  dsimp only at h
  omega

theorem lineOffends_range {p : Plan} {o : Nat} (h : p.lineOffends o) : 1031 ≤ o ∧ o < 1031 + 6 * p.lineCount := by
  obtain ⟨i, hi, ho⟩ := (lineOffends_iff p o).1 h
  have := lineRecordOffends_range ho
  omega

theorem areaOffends_le {p : Plan} {o : Nat} (h : p.areaOffends o) : 1175 ≤ o := by
  obtain ⟨a, -, ho⟩ := (areaOffends_iff p o).1 h
  have := areaRecordOffends_le ho
  omega

theorem zoneOffends_le {p : Plan} {o : Nat} (h : p.zoneOffends o) : 1287 ≤ o := by
  obtain ⟨z, -, ho⟩ := (zoneOffends_iff p o).1 h
  have := zoneRecordOffends_le ho
  omega

/-- R103 to R107: PL names the least word that offends, each table after the ones that the checks lean on. -/
theorem leastOf_fields (p : Plan) : LeastOf p.offends (fieldFailure p) := by
  rw [fieldFailure_eq]
  refine (leastOf_header p).or (fun hh => ?tables) fun o k ho hk => ?header
  case header =>
    have h1 := headerOffends_le (((leastOf_header p).eq_some_iff o).1 ho).1
    obtain hk | hk | hk := hk
    · have := lineOffends_range hk
      omega
    · have := areaOffends_le hk
      omega
    · have := zoneOffends_le hk
      omega
  case tables =>
    obtain ⟨hL, hA, hF⟩ := counts_of_header hh
    refine (leastOf_lines p).or (fun hl => ?areas) fun o k ho hk => ?lines
    case lines =>
      have h1 := lineOffends_range (((leastOf_lines p).eq_some_iff o).1 ho).1
      obtain hk | hk := hk
      · have := areaOffends_le hk
        omega
      · have := zoneOffends_le hk
        omega
    case areas =>
      refine (leastOf_areas p).or (fun ha => leastOf_zones (zonesExaminable_of hF ((leastOf_lines p).eq_none_iff.1 hl)
        ((leastOf_areas p).eq_none_iff.1 ha))) fun o k ho hk => ?_
      obtain ⟨a, ha, hao⟩ := List.exists_of_findSome?_eq_some ho
      have h1 := areaFailure_lt hao
      have h2 := List.mem_range.1 ha
      have h3 := zoneOffends_le hk
      omega

end Sys2Proof.Machine
end

section
/-!
PROOFS. The regions and the layout of a plan (R108, R109) and what a plan that passes every check is known to be: O29.
-/
namespace Sys2Proof.Machine

-- one theorem after another, as in the tests: side by side they take more threads than the memory limit allows
set_option Elab.async false

/-! ### The first overlap (R108) -/

/-- R108: the region at a place of a list overlaps one of those placed already or one before it in the list. -/
def MeetsAt (placed l : List PlacedRegion) (k : Nat) : Prop :=
  ∃ r, l[k]? = some r ∧ ((∃ q ∈ placed, r.overlaps q = true) ∨ ∃ j q, j < k ∧ l[j]? = some q ∧ r.overlaps q = true)

theorem meetsAt_zero (placed l : List PlacedRegion) (r : PlacedRegion) :
    MeetsAt placed (r :: l) 0 ↔ placed.any r.overlaps = true := by
  rw [List.any_eq_true]
  constructor
  · rintro ⟨x, hx, ⟨q, hq, ho⟩ | ⟨j, q, hj, -⟩⟩
    · obtain rfl : r = x := by simpa using hx
      exact ⟨q, hq, ho⟩
    · exact absurd hj (Nat.not_lt_zero j)
  · rintro ⟨q, hq, ho⟩
    exact ⟨r, rfl, .inl ⟨q, hq, ho⟩⟩

theorem meetsAt_succ (placed l : List PlacedRegion) (r : PlacedRegion) (k : Nat) :
    MeetsAt placed (r :: l) (k + 1) ↔ MeetsAt (placed ++ [r]) l k := by
  unfold MeetsAt
  simp only [List.getElem?_cons_succ, List.mem_append, List.mem_singleton]
  refine exists_congr fun x => and_congr_right fun _ => ⟨?_, ?_⟩
  · rintro (⟨q, hq, ho⟩ | ⟨j, q, hj, hq, ho⟩)
    · exact .inl ⟨q, .inl hq, ho⟩
    · cases j with
      | zero =>
        obtain rfl : r = q := by simpa using hq
        exact .inl ⟨r, .inr rfl, ho⟩
      | succ j => exact .inr ⟨j, q, by omega, by simpa using hq, ho⟩
  · rintro (⟨q, hq | rfl, ho⟩ | ⟨j, q, hj, hq, ho⟩)
    · exact .inl ⟨q, hq, ho⟩
    · exact .inr ⟨0, q, by omega, rfl, ho⟩
    · exact .inr ⟨j + 1, q, by omega, by simpa using hq, ho⟩

/-- R108: the overlap check names the first region that overlaps. -/
theorem firstOverlap_eq_some (placed l : List PlacedRegion) (o : Nat) : firstOverlap placed l = some o ↔
    ∃ k r, l[k]? = some r ∧ r.placedBy = o ∧ MeetsAt placed l k ∧ ∀ j, j < k → ¬ MeetsAt placed l j := by
  induction l generalizing placed with
  | nil => simp [firstOverlap]
  | cons r l ih =>
    have hfirst := meetsAt_zero placed l r
    unfold firstOverlap
    by_cases h : placed.any r.overlaps = true
    · rw [if_pos h, Option.some.injEq]
      constructor
      · rintro rfl
        exact ⟨0, r, rfl, rfl, hfirst.2 h, fun j hj => absurd hj (Nat.not_lt_zero j)⟩
      · rintro ⟨k, x, hx, rfl, -, hno⟩
        cases k with
        | zero =>
          obtain rfl : r = x := by simpa using hx
          rfl
        | succ k => exact absurd (hfirst.2 h) (hno 0 (Nat.succ_pos k))
    · rw [if_neg h, ih]
      constructor
      · rintro ⟨k, x, hx, ho, hm, hno⟩
        refine ⟨k + 1, x, by simpa using hx, ho, (meetsAt_succ ..).2 hm, fun j hj => ?_⟩
        cases j with
        | zero => exact fun hm => h (hfirst.1 hm)
        | succ j => exact fun hm => hno j (by omega) ((meetsAt_succ ..).1 hm)
      · rintro ⟨k, x, hx, ho, hm, hno⟩
        cases k with
        | zero => exact absurd (hfirst.1 hm) h
        | succ k =>
          exact ⟨k, x, by simpa using hx, ho, (meetsAt_succ ..).1 hm,
            fun j hj hm => hno (j + 1) (by omega) ((meetsAt_succ ..).2 hm)⟩

/-- R108: regions that are not empty overlap exactly if an address lies in both. -/
theorem overlaps_iff {r q : PlacedRegion} (hr : 0 < r.length) (hq : 0 < q.length) :
    r.overlaps q = true ↔ ∃ a, r.holds a ∧ q.holds a := by
  unfold PlacedRegion.overlaps PlacedRegion.holds
  rw [Bool.and_eq_true, decide_eq_true_eq, decide_eq_true_eq]
  constructor
  · rintro ⟨h1, h2⟩
    exact ⟨max r.base q.base, by omega, by omega⟩
  · rintro ⟨a, h1, h2⟩
    omega

theorem not_overlaps {r q : PlacedRegion} (h : r.overlaps q = false) :
    r.base + r.length ≤ q.base ∨ q.base + q.length ≤ r.base := by
  unfold PlacedRegion.overlaps at h
  rw [Bool.and_eq_false_iff, decide_eq_false_iff_not, decide_eq_false_iff_not] at h
  omega

theorem planRegion_holds (straps : BitVec 6) (a : Nat) : (planRegion straps).holds a ↔
    straps.toNat * 1048576 ≤ a ∧ a ≤ straps.toNat * 1048576 + 4095 := by
  have hb : (planRegion straps).base = straps.toNat * 1048576 := planBase_eq straps
  have hl : (planRegion straps).length = 4096 := rfl
  unfold PlacedRegion.holds
  rw [hb, hl]
  omega

/-- R104, R105: no region of a plan whose words pass is empty. -/
theorem length_pos_of_fields {p : Plan} (h : fieldFailure p = none) {r : PlacedRegion} (hr : r ∈ p.regions) :
    0 < r.length := by
  have hno := (leastOf_fields p).eq_none_iff.1 h
  have hframe : ¬ ¬ (p.frameLen = 16 ∨ p.frameLen = 32 ∨ p.frameLen = 64 ∨ p.frameLen = 128 ∨ p.frameLen = 256) :=
    fun hc => hno 1025 (.inl (.inl ⟨rfl, hc⟩))
  have hzones : ¬ ¬ (1 ≤ p.zoneCount ∧ p.zoneCount ≤ 48) :=
    fun hc => hno 1028 (.inl (.inr (.inr (.inr (.inl ⟨rfl, hc⟩)))))
  have hF : 0 < p.frameLen := by omega
  have hZ : 0 < p.zoneCount := by omega
  rw [regions_eq] at hr
  simp only [List.cons_append, List.nil_append, List.mem_cons, List.mem_map, List.mem_range] at hr
  obtain rfl | rfl | ⟨i, hi, rfl⟩ := hr
  · exact Nat.mul_pos hZ hF
  · exact Nat.mul_pos hZ (by omega)
  · obtain ⟨e, -, -, he⟩ := lineLen_of_lines (fun o ho => hno o (.inr (.inl ho))) hi
    show 0 < p.lineLen i
    rw [he]
    exact Nat.two_pow_pos e

/-- R108: in the terms of addresses. -/
theorem overlapsAt_iff {p : Plan} (h : fieldFailure p = none) (straps : BitVec 6) (k : Nat) :
    MeetsAt [planRegion straps] p.regions k ↔ p.overlapsAt straps k := by
  unfold MeetsAt Plan.overlapsAt
  refine exists_congr fun r => and_congr_right fun hr => ?_
  have hpos := length_pos_of_fields h (List.mem_of_getElem? hr)
  refine or_congr ?_ (exists_congr fun j => exists_congr fun q => and_congr_right fun _ => and_congr_right fun hq =>
    overlaps_iff hpos (length_pos_of_fields h (List.mem_of_getElem? hq)))
  have hplan : 0 < (planRegion straps).length := Nat.succ_pos _
  simp only [List.mem_singleton, exists_eq_left, overlaps_iff hpos hplan, planRegion_holds]

theorem regionFailure_eq_some {p : Plan} (h : fieldFailure p = none) (straps : BitVec 6) (o : Nat) :
    regionFailure straps p = some o ↔
      ∃ k r, p.regions[k]? = some r ∧ r.placedBy = o ∧ p.overlapsAt straps k ∧ ∀ j, j < k → ¬ p.overlapsAt straps j := by
  simp only [← overlapsAt_iff h]
  exact firstOverlap_eq_some _ _ _

/-- R108: the regions in the order of their placing words, by the offsets of 6.1. -/
theorem regions_fields (p : Plan) : p.regions =
    [⟨1029, p.num 1029, p.num 1028 * p.num 1025⟩, ⟨1030, p.num 1030, p.num 1028 * (2 * p.num 1025)⟩] ++
      (List.range (p.num 1026)).map (fun i => ⟨1031 + 6 * i, p.num (1031 + 6 * i), p.num (1032 + 6 * i)⟩) := by
  have hline : p.lineRegion = fun i => ⟨1031 + 6 * i, p.num (1031 + 6 * i), p.num (1032 + 6 * i)⟩ :=
    funext fun i => congrArg (PlacedRegion.mk _ _) (lineLen_eq p i)
  rw [regions_eq, hline]
  rfl

/-! ### The layout words (R109) -/

theorem mem_layoutOffsets (p : Plan) (o : Nat) : o ∈ p.layoutOffsets ↔ p.laysOut o := by
  have hheader : o ∈ List.range' 1025 6 ↔ 1025 ≤ o ∧ o ≤ 1030 := by
    rw [List.mem_range'_1]
    omega
  have hline (i : Nat) : (o = lineOff i 0 ∨ o = lineOff i 1 ∨ o = lineOff i 2 ∨ o = lineOff i 3) ↔
      ∃ k, k ≤ 3 ∧ o = 1031 + 6 * i + k := by
    unfold lineOff
    refine ⟨fun h => ⟨o - (1031 + 6 * i), by omega, by omega⟩, fun ⟨k, hk, ho⟩ => by omega⟩
  have hzone (z : Nat) : (o = zoneOff z 0 ∨ o = zoneOff z 1) ↔ ∃ k, k ≤ 1 ∧ o = 1287 + 12 * z + k := by
    unfold zoneOff
    refine ⟨fun h => ⟨o - (1287 + 12 * z), by omega, by omega⟩, fun ⟨k, hk, ho⟩ => by omega⟩
  unfold Plan.layoutOffsets Plan.laysOut
  simp only [List.mem_append, hheader, List.mem_flatMap, List.mem_map, List.mem_range, List.mem_cons, List.not_mem_nil,
    or_false, hline, hzone, or_assoc, ← exists_and_left, eq_comm (a := areaOff _ 0)]
  rfl

/-- R109: the layout words stand in increasing order where the counts are in range. -/
theorem layoutOffsets_pairwise {p : Plan} (hL : p.lineCount ≤ 24) (hA : p.areaCount ≤ 8) :
    p.layoutOffsets.Pairwise (· < ·) := by
  have hlines : ((List.range p.lineCount).flatMap fun i => [lineOff i 0, lineOff i 1, lineOff i 2, lineOff i 3]).Pairwise
      (· < ·) := by
    refine List.pairwise_flatMap.2 ⟨fun i _ => by simp [lineOff], List.pairwise_lt_range.imp fun {i j} hij x hx y hy => ?_⟩
    simp only [List.mem_cons, List.not_mem_nil, or_false, lineOff] at hx hy
    omega
  have hareas : ((List.range p.areaCount).map fun a => areaOff a 0).Pairwise (· < ·) :=
    List.pairwise_map.2 (List.pairwise_lt_range.imp fun {a b} hab => by
      unfold areaOff
      omega)
  have hzones : ((List.range p.zoneCount).flatMap fun z => [zoneOff z 0, zoneOff z 1]).Pairwise (· < ·) := by
    refine List.pairwise_flatMap.2 ⟨fun i _ => by simp [zoneOff], List.pairwise_lt_range.imp fun {i j} hij x hx y hy => ?_⟩
    simp only [List.mem_cons, List.not_mem_nil, or_false, zoneOff] at hx hy
    omega
  have inHeader {o : Nat} (h : o ∈ List.range' 1025 6) : o < 1031 := (List.mem_range'_1.1 h).2
  have inLines {o : Nat} (h : o ∈ (List.range p.lineCount).flatMap fun i =>
      [lineOff i 0, lineOff i 1, lineOff i 2, lineOff i 3]) : 1031 ≤ o ∧ o < 1175 := by
    obtain ⟨i, hi, h⟩ := List.mem_flatMap.1 h
    simp only [List.mem_cons, List.not_mem_nil, or_false, List.mem_range, lineOff] at hi h
    omega
  have inAreas {o : Nat} (h : o ∈ (List.range p.areaCount).map fun a => areaOff a 0) : 1175 ≤ o ∧ o < 1287 := by
    obtain ⟨a, ha, rfl⟩ := List.mem_map.1 h
    simp only [List.mem_range, areaOff] at ha ⊢
    omega
  have inZones {o : Nat} (h : o ∈ (List.range p.zoneCount).flatMap fun z => [zoneOff z 0, zoneOff z 1]) : 1287 ≤ o := by
    obtain ⟨z, -, h⟩ := List.mem_flatMap.1 h
    simp only [List.mem_cons, List.not_mem_nil, or_false, zoneOff] at h
    omega
  refine List.pairwise_append.2 ⟨List.pairwise_append.2 ⟨List.pairwise_append.2 ⟨List.pairwise_lt_range', hlines, ?_⟩,
    hareas, ?_⟩, hzones, ?_⟩
  · intro x hx y hy
    exact Nat.lt_of_lt_of_le (inHeader hx) (inLines hy).1
  · intro x hx y hy
    obtain hx | hx := List.mem_append.1 hx
    · exact Nat.lt_trans (inHeader hx) (Nat.lt_of_lt_of_le (by decide) (inAreas hy).1)
    · exact Nat.lt_of_lt_of_le (inLines hx).2 (inAreas hy).1
  · intro x hx y hy
    obtain hx | hx := List.mem_append.1 hx
    · obtain hx | hx := List.mem_append.1 hx
      · exact Nat.lt_trans (inHeader hx) (Nat.lt_of_lt_of_le (by decide) (inZones hy))
      · exact Nat.lt_trans (inLines hx).2 (Nat.lt_of_lt_of_le (by decide) (inZones hy))
    · exact Nat.lt_of_lt_of_le (inAreas hx).2 (inZones hy)

/-- R109: the layout check is a list of checks, one of each layout word. -/
theorem layoutFailure_eq (q p : Plan) :
    layoutFailure q p = firstFailure (p.layoutOffsets.map fun o => (o, decide (p.word o = q.word o))) := by
  unfold layoutFailure
  induction p.layoutOffsets with
  | nil => rfl
  | cons o l ih =>
    rw [List.map_cons, firstFailure_cons]
    by_cases h : p.word o = q.word o
    · rw [List.find?_cons_of_neg (by simpa using h), if_pos (decide_eq_true h), ih]
    · rw [List.find?_cons_of_pos (by simpa using h), if_neg (by simpa using h)]

theorem leastOf_layout {p : Plan} (hL : p.lineCount ≤ 24) (hA : p.areaCount ≤ 8) (q : Plan) :
    LeastOf (fun o => p.laysOut o ∧ p.word o ≠ q.word o) (layoutFailure q p) := by
  rw [layoutFailure_eq]
  refine (LeastOf.firstFailure (List.pairwise_map.2 (layoutOffsets_pairwise hL hA))).congr fun o => ?_
  rw [List.mem_map]
  constructor
  · rintro ⟨k, hk, he⟩
    obtain ⟨rfl, hne⟩ := check_fails_iff.1 he.symm
    exact ⟨(mem_layoutOffsets p o).1 hk, hne⟩
  · rintro ⟨ho, hne⟩
    exact ⟨o, (mem_layoutOffsets p o).2 ho, (check_fails_iff.2 ⟨rfl, hne⟩).symm⟩

/-! ### A plan that passes (R104 to R107) -/

/-- R105: what is known of a line in use. -/
theorem line_sound {p : Plan} (h : ∀ o, ¬ p.offends o) {i : Nat} (hi : i < p.lineCount) :
    (∃ e, 10 ≤ e ∧ e ≤ 16 ∧ p.lineLen i = 2 ^ e) ∧
      p.lineBase i + p.lineLen i ≤ 67108864 ∧ p.lineBase i % p.lineLen i = 0 ∧ p.lineWriter i ≤ 3 ∧
      (p.lineRole i = 1 ∨ p.lineRole i = 2) ∧ p.jumpThreshold i ≤ 8388607 ∧
      1 ≤ p.recoverFrames i ∧ p.recoverFrames i ≤ 255 := by
  have hno (o : Nat) (ho : p.lineRecordOffends i o) : False := h o (.inr (.inl ⟨i, hi, ho⟩))
  have hbase : ¬ 67108863 < p.lineBase i := fun hc => hno _ (.inl ⟨rfl, hc⟩)
  have hlength : (∃ e, 10 ≤ e ∧ e ≤ 16 ∧ p.lineLen i = 2 ^ e) ∧ p.lineBase i % p.lineLen i = 0 :=
    by_contra fun hc => hno _ (.inr (.inl ⟨rfl, hc⟩))
  have hwriter : ¬ 3 < p.lineWriter i := fun hc => hno _ (.inr (.inr (.inl ⟨rfl, hc⟩)))
  have hrole : ¬ (p.lineRole i ≠ 1 ∧ p.lineRole i ≠ 2) := fun hc => hno _ (.inr (.inr (.inr (.inl ⟨rfl, hc⟩))))
  have hjump : ¬ 8388607 < p.jumpThreshold i := fun hc => hno _ (.inr (.inr (.inr (.inr (.inl ⟨rfl, hc⟩)))))
  have hrecover : ¬ ¬ (1 ≤ p.recoverFrames i ∧ p.recoverFrames i ≤ 255) :=
    fun hc => hno _ (.inr (.inr (.inr (.inr (.inr ⟨rfl, hc⟩)))))
  obtain ⟨⟨e, h10, h16, he⟩, hmod⟩ := hlength
  have hend : p.lineBase i + p.lineLen i ≤ 67108864 := by
    have hdvd : p.lineLen i ∣ 67108864 := by
      rw [he, show 67108864 = 2 ^ 26 by decide]
      exact Nat.pow_dvd_pow 2 (by omega)
    obtain ⟨c, hc⟩ := Nat.dvd_of_mod_eq_zero hmod
    obtain ⟨n, hn⟩ := hdvd
    have hlt : c < n := by
      have : p.lineLen i * c < p.lineLen i * n := by omega
      exact Nat.lt_of_mul_lt_mul_left this
    have hle : p.lineLen i * (c + 1) ≤ p.lineLen i * n := Nat.mul_le_mul_left _ hlt
    rw [Nat.mul_succ] at hle
    omega
  exact ⟨⟨e, h10, h16, he⟩, hend, hmod, by omega, by omega, by omega, by omega, by omega⟩

/-- R106: what is known of an area in use. -/
theorem area_sound {p : Plan} (h : ∀ o, ¬ p.offends o) {a : Nat} (ha : a < p.areaCount) :
    p.candCount a ≤ 8 ∧ 1 ≤ p.glideFrames a ∧ p.glideFrames a ≤ 64 ∧
      p.threshold a ≤ 8388607 ∧ p.margin a ≤ 8388607 ∧ p.dwellFrames a ≤ 255 ∧ p.releaseFrames a ≤ 255 ∧
      1 ≤ p.decayShift a ∧ p.decayShift a ≤ 8 ∧ p.num (1175 + 14 * a + 13) < 65536 ∧
      (∀ i, i < p.candCount a → p.candLine a i < p.lineCount ∧ p.lineRole (p.candLine a i) = 1) ∧
      (∀ i k, i < p.candCount a → k < i → p.candLine a k ≠ p.candLine a i) := by
  have hno (o : Nat) (ho : p.areaRecordOffends a o) : False := h o (.inr (.inr (.inl ⟨a, ha, ho⟩)))
  have hcount : ¬ 8 < p.candCount a := fun hc => hno _ (.inl ⟨rfl, hc⟩)
  have hline (j : Nat) (hj : j < p.candCount a) : p.candLine a j < p.lineCount ∧
      p.num (1034 + 6 * p.candLine a j) = 1 ∧ ∀ k, k < j → p.candLine a k ≠ p.candLine a j :=
    by_contra fun hc => hno _ (.inr (.inl ⟨j, hj, rfl, hc⟩))
  have hthreshold : ¬ 8388607 < p.threshold a := fun hc => hno _ (.inr (.inr (.inl ⟨rfl, hc⟩)))
  have hmargin : ¬ 8388607 < p.margin a := fun hc => hno _ (.inr (.inr (.inr (.inl ⟨rfl, hc⟩))))
  have hdwell : ¬ 255 < p.dwellFrames a := fun hc => hno _ (.inr (.inr (.inr (.inr (.inl ⟨rfl, hc⟩)))))
  have hrelease : ¬ 255 < p.releaseFrames a :=
    fun hc => hno _ (.inr (.inr (.inr (.inr (.inr (.inl ⟨rfl, hc⟩))))))
  have hshift := (Decidable.not_not (p := (1 ≤ p.num (1175 + 14 * a + 13) % 256 ∧ p.num (1175 + 14 * a + 13) % 256 ≤ 8 ∧
    1 ≤ p.num (1175 + 14 * a + 13) / 256 % 256 ∧ p.num (1175 + 14 * a + 13) / 256 % 256 ≤ 64 ∧
    p.num (1175 + 14 * a + 13) < 65536))).1 fun hc => hno _ (.inr (.inr (.inr (.inr (.inr (.inr ⟨rfl, hc⟩))))))
  obtain ⟨hs1, hs8, hg1, hg64, hhigh⟩ := hshift
  rw [glideFrames_eq, decayShift_eq]
  refine ⟨by omega, hg1, hg64, by omega, by omega, by omega, by omega, hs1, hs8, hhigh, fun i hi => ?_, fun i k hi hk => ?_⟩
  · obtain ⟨hlt, hrole, -⟩ := hline i hi
    exact ⟨hlt, (lineRole_eq p _).trans hrole⟩
  · obtain ⟨-, -, hdiff⟩ := hline i hi
    exact hdiff k hk

/-- R107: what is known of a zone in use. -/
theorem zone_sound {p : Plan} (h : ∀ o, ¬ p.offends o) {z : Nat} (hz : z < p.zoneCount) :
    p.programLine z < p.lineCount ∧ p.lineRole (p.programLine z) = 2 ∧ p.zoneArea z < p.areaCount ∧
      p.trim z ≤ 4095 ∧ p.restDelay z + 2 * p.frameLen ≤ p.lineLen (p.programLine z) ∧
      (∀ i, i < p.candCount (p.zoneArea z) → p.rowEntry z i + 2 * p.frameLen ≤ p.lineLen (p.programLine z)) := by
  have hno (o : Nat) (ho : p.zoneRecordOffends z o) : False := h o (.inr (.inr (.inr ⟨z, hz, ho⟩)))
  have hline : p.programLine z < p.lineCount ∧ p.num (1034 + 6 * p.programLine z) = 2 :=
    by_contra fun hc => hno _ (.inl ⟨rfl, hc⟩)
  have harea : ¬ p.areaCount ≤ p.zoneArea z := fun hc => hno _ (.inr (.inl ⟨rfl, hc⟩))
  have htrim : ¬ 4095 < p.trim z := fun hc => hno _ (.inr (.inr (.inl ⟨rfl, hc⟩)))
  have hrest : ¬ p.num (1032 + 6 * p.programLine z) < p.restDelay z + 2 * p.frameLen :=
    fun hc => hno _ (.inr (.inr (.inr (.inl ⟨rfl, hc⟩))))
  have hrow (i : Nat) (hi : i < p.candCount (p.zoneArea z)) :
      ¬ p.num (1032 + 6 * p.programLine z) < p.rowEntry z i + 2 * p.frameLen :=
    fun hc => hno _ (.inr (.inr (.inr (.inr ⟨i, hi, rfl, hc⟩))))
  obtain ⟨hlt, hrole⟩ := hline
  rw [lineRole_eq, lineLen_eq]
  exact ⟨hlt, hrole, Nat.lt_of_not_le harea, Nat.le_of_not_lt htrim, Nat.le_of_not_lt hrest,
    fun i hi => Nat.le_of_not_lt (hrow i hi)⟩

/-- R109: beside a live plan the layout decides, once the plan has passed on its own. -/
theorem planResult_beside {straps : BitVec 6} {p : Plan} (h : planResult straps none p = .pass) (q : Plan) :
    planResult straps (some q) p = .pass ↔ layoutFailure q p = none := by
  unfold planResult
  rw [fieldFailure_of_pass h, regionFailure_of_pass h, Option.bind_some]
  cases layoutFailure q p <;> simp

/-- Settles O29: the least offending word (`leastOf_fields`), the first overlap (`firstOverlap_eq_some`), the first layout
word that differs (`leastOf_layout`), and what no offending word and no overlap say of a plan. -/
theorem checkedPlansAreSound : Obligations.CheckedPlansAreSound := by
  refine ⟨fun p => ⟨planFields p, regions_fields p, (leastOf_fields p).eq_some_iff, (leastOf_fields p).eq_none_iff⟩,
    fun straps p o h => regionFailure_eq_some h straps o, fun straps p h => ?_⟩
  have hno := (leastOf_fields p).eq_none_iff.1 (fieldFailure_of_pass h)
  obtain ⟨hL, hA, -⟩ := counts_of_pass h
  obtain ⟨hplan, hpairs⟩ := firstOverlap_none _ _ (regionFailure_of_pass h)
  refine ⟨fun q o => ?layout, fun i hi => line_sound hno hi, fun a ha => area_sound hno ha, fun z hz => zone_sound hno hz,
    fun r hr => not_overlaps (hplan r hr ⟨0, planBase straps, 4096⟩ (List.mem_singleton.2 rfl)),
    hpairs.imp fun hrq => (not_overlaps hrq).symm, fun q => ?beside⟩
  case layout =>
    rw [(leastOf_layout hL hA q).eq_some_iff, and_assoc]
    refine and_congr_right fun _ => and_congr_right fun _ => forall_congr' fun k => ?_
    rw [not_and, not_not]
    exact ⟨fun hk hlay hlt => hk hlt hlay, fun hk hlt hlay => hk hlay hlt⟩
  case beside =>
    rw [planResult_beside h, (leastOf_layout hL hA q).eq_none_iff]
    refine forall_congr' fun o => ?_
    rw [not_and, not_not]

end Sys2Proof.Machine
end
